-- ==== Sys2Proof/Word.lean ====
section
/-! DEFINITION. The words of the block: bytes, handles, command words, response words.
Rules R13 (a byte is 8 bits, bit 0 least significant), R101 (24-bit command word), R102 (16-bit response word). -/

namespace Sys2Proof

/-- A data byte: 8 bits, unsigned (R13, R61). -/
abbrev Byte := BitVec 8

/-- A Buffer handle: one byte (R104). -/
abbrev Handle := BitVec 8

/-- A command word: op in bits 23..16, a1 in bits 15..8, a0 in bits 7..0 (R101). -/
abbrev CmdWord := BitVec 24

/-- A response word: status in bits 15..8, value in bits 7..0 (R102). -/
abbrev RspWord := BitVec 16

end Sys2Proof
end

