-- ==== Sys2Proof/Config.lean ====
section
/-! DEFINITION. The implementation parameters of rule R6, their constraints (R7, U15), the reference configuration
`CFG_REF`, and the values the spec leaves open as uninterpreted constants.
The parameters are arguments fixed for a whole run: `State` carries one `Config` that no operation changes. -/

namespace Sys2Proof

/-- The parameters of R6. `K` is the length of `pre`; `ERR_FRAME` stands below, as it is used by the host alone. -/
structure Config where
  /-- `PRE[0..K-1]`, `PRE[0]` first on the wire. -/
  pre : List Byte
  /-- `MIN_FRAME_LEN`. -/
  minFrameLen : Nat
  /-- `N_ING`, the capacity of each ingress Buffer. -/
  nIng : Nat
  /-- `N_EGR`, the capacity of each egress Buffer. -/
  nEgr : Nat
  /-- `POOL_SIZE`. -/
  poolSize : Nat
  /-- `POOL_CAP`, the capacity of each pool Buffer. -/
  poolCap : Nat
  /-- `ERRQ_DEPTH`. -/
  errqDepth : Nat
  deriving DecidableEq, Repr

/-- `K`, the number of preamble bytes (R6). -/
abbrev Config.k (c : Config) : Nat := c.pre.length

/-- The constraints on a configuration: the ranges of R6 and the clauses (a) to (d) of R7 (U15 lists them together).
A configuration that breaks one is refused. -/
abbrev Config.Valid (c : Config) : Prop :=
  1 ≤ c.k ∧ c.k ≤ 64 ∧
  (∀ b ∈ c.pre.head?, b ∉ c.pre.tail) ∧
  c.k + 2 ≤ c.minFrameLen ∧ c.minFrameLen ≤ 255 ∧
  1 ≤ c.nIng ∧ 1 ≤ c.nEgr ∧
  1 ≤ c.poolSize ∧ c.poolSize ≤ 224 ∧
  1 ≤ c.poolCap ∧ 1 ≤ c.errqDepth

/-- `CFG_REF` of R6. -/
def Config.ref : Config :=
  { pre := [0x03, 0xAF, 0xEF], minFrameLen := 8, nIng := 16, nEgr := 16, poolSize := 4, poolCap := 251, errqDepth := 4 }

/-- What a storage byte holds that nothing has written since reset: 'any value' (R50, U1). The first argument is the
number of resets so far, the second the address. DESIGN CHOICE, log entry 3. -/
opaque Config.unspecifiedByte : Nat → Nat → Byte

/-- The byte the Framer's arm Payload sends when its Buffer is empty, a case R223 rules out without giving a value.
The argument is the step's free input. DESIGN CHOICE, log entry 9. -/
opaque Config.emptyPayloadByte : Nat → Byte

/-- `ERR_FRAME` of R6 and R245: the bytes of the notification Buffer for an error code; OPEN (D18, U17). -/
opaque Config.errFrame : Byte → List Byte

end Sys2Proof
end

