-- ==== Sys2Proof/Syntax.lean ====
section
/-! DEFINITION. The thirty operations of rule R100, one constructor for each row of spec/opcode_table.json. -/

namespace Sys2Proof

/-- A DoubleBuffer select (R105): 0 is the ingress pair, 1 the egress pair. -/
inductive DbSel where
  | ing
  | egr
  deriving DecidableEq, Repr

/-- The operations of the block (R100), with their operands `h`, `d` and `b` of R106. -/
inductive Instr where
  | bufWrite (h : Handle) (b : Byte)
  | bufPeek (h : Handle)
  | bufRead (h : Handle)
  | bufClose (h : Handle)
  | bufOpen (h : Handle)
  | bufReset (h : Handle)
  | bufIsclosed (h : Handle)
  | bufIsempty (h : Handle)
  | dbWhandle (d : DbSel)
  | dbRhandle (d : DbSel)
  | dbPut (d : DbSel) (b : Byte)
  | dbPeek (d : DbSel)
  | dbTake (d : DbSel)
  | dbSwappable (d : DbSel)
  | dbSwap (d : DbSel)
  | poolAlloc
  | poolFree (h : Handle)
  | trNext
  | trPutb (b : Byte)
  | trFlush
  | trRxbyte (b : Byte)
  | trRxtmo
  | trTxbyte
  | parFetch
  | parExec
  | frmStep
  | frmPost (h : Handle)
  | outPop
  | errPop
  | sysReset
  deriving DecidableEq, Repr

end Sys2Proof
end

