-- ==== Sys2Proof/Machine/Handles.lean ====
section
/-! DEFINITION. Handles (R24, R65, R104): which bytes name a Buffer, where that Buffer stands in the register file,
what its capacity is, and which handles a DoubleBuffer's two slots have. -/

namespace Sys2Proof.Machine

/-- `h` names a pool Buffer: `0x10 + p` with `p < POOL_SIZE` (R104). -/
abbrev isPoolHandle (c : Config) (h : Handle) : Prop := 0x10 ≤ h.toNat ∧ h.toNat < 0x10 + c.poolSize

/-- `h` names a Buffer: a DoubleBuffer slot or a pool Buffer; every other value is reserved (R104, R65). -/
abbrev isLegalHandle (c : Config) (h : Handle) : Prop := h.toNat < 4 ∨ isPoolHandle c h

/-- The handle `0x10 + p` of `POOL[p]` (R104). -/
def poolHandle (p : Nat) : Handle := BitVec.ofNat 8 (0x10 + p)

/-- The index `p` of the pool Buffer `0x10 + p` names (R104). -/
def poolIndex (h : Handle) : Nat := h.toNat - 0x10

/-- Where the registers of the Buffer `h` stand: the four slots first, then the pool (R24). -/
def bufIndex (h : Handle) : Nat := if h.toNat < 4 then h.toNat else h.toNat - 0x10 + 4

/-- `cap(h)`: `N_ING`, `N_EGR` or `POOL_CAP` (R14, R24). -/
def capOf (c : Config) (h : Handle) : Nat :=
  if h.toNat < 2 then c.nIng else if h.toNat < 4 then c.nEgr else c.poolCap

/-- The handle of slot 0 of a DoubleBuffer (R104). -/
def slotBase : DbSel → Handle
  | .ing => 0x00
  | .egr => 0x02

/-- The handle of slot `a` of a DoubleBuffer (R104). -/
def slotHandle (d : DbSel) (a : Bool) : Handle := if a then slotBase d + 1 else slotBase d

/-- `d` as it stands in a command word (R105). -/
def selByte : DbSel → Byte
  | .ing => 0
  | .egr => 1

end Sys2Proof.Machine
end

