-- ==== Sys2Proof/Machine/State.lean ====
section
/-! DEFINITION. The state of the block as plain data (R20 to R52), the reasons a step of the model can stop, and the
state after reset (R50). -/

namespace Sys2Proof.Machine

/-- The five agents (R10). Each has its own command port (R101, D2). -/
inductive Agent where
  | rx
  | parser
  | framer
  | tx
  | host
  deriving DecidableEq, Repr

/-- The three registers of a Buffer (R20): `put`, `get` and `closed`. -/
structure Buf where
  put : Nat
  get : Nat
  closed : Bool
  deriving DecidableEq, Repr

/-- A Buffer after `BUF.RESET` or reset: empty and open (R50, R125). -/
def Buf.empty : Buf := ⟨0, 0, false⟩

/-- Who holds a pool Buffer (R29). -/
inductive Owner where
  | free
  | heldParser
  | inQOut
  | heldHost
  | inQIn
  | heldFramer
  deriving DecidableEq, Repr

/-- `pstate`, the Parser's state register (R30). -/
inductive PState where
  | seekPreamble (i : Nat)
  | readLength
  | readPayload (r : Nat)
  | errorRecovery (i : Nat)
  deriving DecidableEq, Repr

/-- `fstate`, the Framer's state register (R36). -/
inductive FState where
  | idle
  | preamble (i : Nat)
  | payload
  | checksum
  deriving DecidableEq, Repr

/-- The six faults of the block (R44, R257). They are recorded in `FAULT`, they do not stop the machine. -/
inductive FaultName where
  | swap
  | rxOverrun
  | payloadOverflow
  | ownership
  | postOpen
  | reserved
  deriving DecidableEq, Repr

/-- What the arbiter serves next (R9, R101, D2): a command word on an agent's port with the step's free input (R161:
the choice among free Buffers), or the reset input `rst` (R270). -/
inductive Event where
  | command (issuer : Agent) (word : CmdWord) (pick : Nat)
  | rst
  deriving DecidableEq, Repr

/-- The response word standing on each agent's port (R102, D2). -/
structure RspPorts where
  rx : RspWord
  parser : RspWord
  framer : RspWord
  tx : RspWord
  host : RspWord
  deriving DecidableEq, Repr

/-- The storage of all Buffers: (address, byte) pairs, addresses strictly rising. An unlisted address has no value
(R50: unspecified). -/
abbrev Memory := List Host.Cell

/-- The state of the block. -/
structure State where
  /-- The parameters (R6), fixed for a run. The MODEL's own field: no operation writes it. DESIGN CHOICE, log
  entry 1. -/
  cfg : Config
  /-- `buf[h].put`, `.get`, `.closed`: handles 0x00 to 0x03, then 0x10, 0x11, ... (R20, R24). -/
  bufs : List Buf
  /-- The storage bytes (R20, R25, R52). -/
  mem : Memory
  /-- `db[ING].aw` (R26). -/
  awIng : Bool
  /-- `db[EGR].aw` (R26). -/
  awEgr : Bool
  /-- `avail` (R28). -/
  avail : Nat
  /-- `owner[p]` (R28, R29). -/
  owner : List Owner
  /-- `pstate` (R30). -/
  pstate : PState
  /-- `pacc` (R31). -/
  pacc : Byte
  /-- `pcur`: a valid bit and a handle (R32). -/
  pcur : Option Handle
  /-- `platch`: a valid bit and a byte (R33). -/
  platch : Option Byte
  /-- `fstate` (R36). -/
  fstate : FState
  /-- `facc` (R37). -/
  facc : Byte
  /-- `fcur`: a valid bit and a handle (R38). -/
  fcur : Option Handle
  /-- `Q_OUT`, oldest first (R40). -/
  qOut : List Handle
  /-- `Q_IN`, oldest first (R41). -/
  qIn : List Handle
  /-- `ERRQ`, oldest first (R42). -/
  errq : List Byte
  /-- `FAULT`, sticky (R44). -/
  fault : BitVec 6
  /-- `RX`, the bytes given to `TR.RXBYTE`, in order (R43). -/
  rx : List Byte
  /-- `TX`, the bytes `TR.TXBYTE` returned, in order (R43). -/
  tx : List Byte
  /-- The response words on the ports (R102, D2). Their reset value is DESIGN CHOICE, log entry 4. -/
  rsp : RspPorts
  /-- The port whose command is being served (R101). The MODEL's own field. -/
  port : Agent
  /-- The free input of the step being served (R161, R47). The MODEL's own field. -/
  pick : Nat
  /-- The events still to be served, in the arbiter's order (R9, R101). The MODEL's own field. DESIGN CHOICE, log
  entry 2. -/
  pending : List Event
  /-- The number of resets so far: it selects the unspecified storage contents (R50). The MODEL's own field.
  DESIGN CHOICE, log entry 3. -/
  epoch : Nat
  deriving DecidableEq, Repr

/-- Why the model stops on a state that the spec's rules exclude (DESIGN CHOICE, log entry 11). None is reachable from reset under a valid
configuration (the statements InvariantKeptByEveryStep and NoStepStops). -/
inductive Fault where
  /-- An access to an address `h:i` that does not exist: `h` names no Buffer or `i` is not below `cap(h)` (R52, R63).
  Raised by `memRead` and `memWrite`. Safe: the model stops where the spec says nothing. -/
  | noSuchAddress
  /-- `POOL.ALLOC` with `avail > 0` and no `owner[p] == Free`, which R28 and R161 (c) exclude.
  Raised by `opPoolAlloc`. Safe: the model stops where the spec says the choice never fails. -/
  | noFreeBuffer
  deriving DecidableEq, Repr

/-- Why the model refuses to go on. -/
inductive Refusal where
  /-- An instruction with no meaning yet. Raised by `exec`'s arms only; no arm is left. Safe. -/
  | notModelled (mnemonic : String)
  /-- The configuration breaks R6 or R7 (U15: refuse). Raised by `step`. Safe. -/
  | badConfiguration
  /-- `pstate`, `fstate` or a valid bit has a value that R30, R32, R36 or R38 exclude (U19: a model may refuse it).
  Raised by `PAR.EXEC` and `FRM.STEP`. Safe. -/
  | unreachableState
  deriving DecidableEq, Repr

/-- Every register at its value of R50, for a configuration. Log entries 1, 4 and 5 say what the spec does not give. -/
def State.resetOf (c : Config) : State :=
  { cfg := c
    bufs := List.replicate (4 + c.poolSize) Buf.empty
    mem := []
    awIng := false
    awEgr := false
    avail := c.poolSize
    owner := List.replicate c.poolSize .free
    pstate := .seekPreamble 0
    pacc := 0
    pcur := none
    platch := none
    fstate := .idle
    facc := 0
    fcur := none
    qOut := []
    qIn := []
    errq := []
    fault := 0
    rx := []
    tx := []
    rsp := ⟨0, 0, 0, 0, 0⟩
    port := .host
    pick := 0
    pending := []
    epoch := 0 }

/-- The block right after reset, under `CFG_REF` (R50, R6). -/
def State.reset : State := State.resetOf Config.ref

end Sys2Proof.Machine
end

