-- ==== Sys2Proof/Machine/Memory.lean ====
section
/-! DEFINITION. The storage of the Buffers as one canonical list of (address, byte) pairs (R20, R52, R60, R62).
An address of the spec is a pair `h:i`; its key is `i * 256 + h`, so that no two pairs share a key (log entry 14). -/

namespace Sys2Proof.Machine

/-- The key of the address `h:i` (R14, R52). -/
def addr (h : Handle) (i : Nat) : Nat := i * 256 + h.toNat

/-- The byte stored at a key; `none` where nothing has been written (R50: unspecified). -/
def Memory.read : Memory → Nat → Option Byte
  | [], _ => none
  | (k, v) :: rest, a => if a = k then some v else Memory.read rest a

/-- The memory with a byte stored at a key, in rising order of the keys (`MemWrite` of R14). -/
def Memory.write : Memory → Nat → Byte → Memory
  | [], a, b => [(a, b)]
  | (k, v) :: rest, a, b =>
    if a < k then (a, b) :: (k, v) :: rest
    else if a = k then (a, b) :: rest
    else (k, v) :: Memory.write rest a b

/-- The canonical form: keys strictly rising. An unlisted key has no value, so no entry can equal what it reads as. -/
def Memory.wf : Memory → Bool
  | [] => true
  | [_] => true
  | (a, _) :: (b, w) :: rest => decide (a < b) && Memory.wf ((b, w) :: rest)

end Sys2Proof.Machine
end

