-- ==== Sys2Proof/Machine/Operands.lean ====
section
/-! DEFINITION. The operand forms: the Buffer a handle names, the write and read buffer of a DoubleBuffer, the storage
byte at an address, who owns a Buffer, and the roles of the agents (R14, R20, R140, R171, R256). -/

namespace Sys2Proof.Machine

/-- `buf[h]`, the registers of the Buffer `h` (R14, R20). -/
def State.buf (s : State) (h : Handle) : Buf := (s.bufs[bufIndex h]?).getD Buf.empty

/-- `cap(h)` (R14). -/
def State.cap (s : State) (h : Handle) : Nat := capOf s.cfg h

/-- The byte in storage at `h:i`; a byte that nothing has written has an unspecified value (R25, R50, U1). -/
def State.byteAt (s : State) (h : Handle) (i : Nat) : Byte :=
  (s.mem.read (addr h i)).getD (Config.unspecifiedByte s.epoch (addr h i))

/-- The address `h:i` exists (R52). -/
abbrev State.addrExists (s : State) (h : Handle) (i : Nat) : Prop := isLegalHandle s.cfg h ∧ i < s.cap h

/-- `db[d].aw` (R26). -/
def State.aw (s : State) : DbSel → Bool
  | .ing => s.awIng
  | .egr => s.awEgr

/-- `wh(d)`, the handle of the write buffer (R140, R104). -/
def State.wh (s : State) (d : DbSel) : Handle := slotHandle d (s.aw d)

/-- `rh(d)`, the handle of the read buffer (R140, R104). -/
def State.rh (s : State) (d : DbSel) : Handle := slotHandle d (!s.aw d)

/-- The agent that writes the write buffer of a DoubleBuffer (R171). -/
def producer : DbSel → Agent
  | .ing => .rx
  | .egr => .framer

/-- The agent that reads the read buffer of a DoubleBuffer (R171). -/
def consumer : DbSel → Agent
  | .ing => .parser
  | .egr => .tx

/-- The agent that swaps a DoubleBuffer (R171). -/
def swapOwner : DbSel → Agent
  | .ing => .rx
  | .egr => .framer

/-- `owner[p]` of the pool Buffer `h` names (R28, R29). -/
def State.ownerOf (s : State) (h : Handle) : Option Owner := s.owner[poolIndex h]?

/-- `Held<agent>` of R162: the owner value that says this agent holds the Buffer (R29). -/
def heldBy : Agent → Option Owner
  | .parser => some .heldParser
  | .framer => some .heldFramer
  | .host => some .heldHost
  | .rx => none
  | .tx => none

/-- The agent an owner value gives the Buffer to (R256). -/
def holderOf : Owner → Option Agent
  | .heldParser => some .parser
  | .heldHost => some .host
  | .heldFramer => some .framer
  | .free => none
  | .inQOut => none
  | .inQIn => none

/-- The agent that owns the Buffer `h` in this state, if any (the table of R256). -/
def State.agentOwning (s : State) (h : Handle) : Option Agent :=
  if h = s.wh .ing then some .rx
  else if h = s.rh .ing then some .parser
  else if h = s.wh .egr then some .framer
  else if h = s.rh .egr then some .tx
  else if isPoolHandle s.cfg h then (s.ownerOf h).bind holderOf
  else none

/-- The indices of the free pool Buffers, rising (R161). -/
def freeIndices (owners : List Owner) : List Nat :=
  (List.range owners.length).filter fun p => owners[p]? == some Owner.free

/-- The free Buffer the step takes: any one of them, as its free input `n` says; 0 gives the lowest (R161, U2).
DESIGN CHOICE, log entry 6. -/
def pickFree (owners : List Owner) (n : Nat) : Option Nat :=
  let free := freeIndices owners
  free[n % free.length]?

end Sys2Proof.Machine
end

