-- ==== Sys2Proof/Machine/Flags.lean ====
section
/-! DEFINITION. The flags and derived predicates: the predicates of a Buffer (R22), `swappable` (R146), the `FAULT`
bits (R44, R257), the checksum test (R45) and the two level outputs of the host port (D2). -/

namespace Sys2Proof.Machine

/-- `empty(h)`: `get >= put` (R22). -/
abbrev Buf.Empty (b : Buf) : Prop := b.put ≤ b.get

/-- `full(h)`: `put == cap(h)` (R22). -/
abbrev Buf.Full (b : Buf) (cap : Nat) : Prop := b.put = cap

/-- `writable(h)`: open and not full (R22). -/
abbrev Buf.Writable (b : Buf) (cap : Nat) : Prop := b.closed = false ∧ b.put < cap

/-- `count(h)`, the number of unread bytes (R22). -/
def Buf.count (b : Buf) : Nat := b.put - b.get

/-- `content(h)`, the unread bytes (R22). -/
def State.content (s : State) (h : Handle) : List Byte :=
  (List.range (s.buf h).count).map fun i => s.byteAt h ((s.buf h).get + i)

/-- `swappable(d)`: read buffer open and write buffer closed (R146). -/
abbrev State.Swappable (s : State) (d : DbSel) : Prop :=
  (s.buf (s.rh d)).closed = false ∧ (s.buf (s.wh d)).closed = true

/-- The guard of `TR.PUTB`: the egress write buffer is open or the pair is swappable (R173). -/
abbrev State.CanSend (s : State) : Prop := (s.buf (s.wh .egr)).closed = false ∨ s.Swappable .egr

/-- A truth value as a result byte (R102). -/
def truthByte (p : Bool) : Byte := if p then 1 else 0

/-- The checksum test: the accumulator is zero after the checksum byte (R45, R92). -/
abbrev checksumGood (acc b : Byte) : Prop := acc ^^^ b = 0

/-- The number of a fault's bit in `FAULT` (R44). -/
def FaultName.bit : FaultName → Nat
  | .swap => 0
  | .rxOverrun => 1
  | .payloadOverflow => 2
  | .ownership => 3
  | .postOpen => 4
  | .reserved => 5

/-- The mask of a fault's bit (R44). -/
def FaultName.mask (f : FaultName) : BitVec 6 := BitVec.ofNat 6 (2 ^ f.bit)

/-- The output `out_avail` of the host side: `Q_OUT.len > 0` (D2). -/
def State.outAvail (s : State) : Bool := decide (0 < s.qOut.length)

/-- The output `err_avail` of the host side: `ERRQ.len > 0` (D2). -/
def State.errAvail (s : State) : Bool := decide (0 < s.errq.length)

end Sys2Proof.Machine
end

