-- ==== Sys2Proof/Machine/Frame.lean ====
section
/-! DEFINITION. The wire frame (R90 to R96) and the constants derived from the parameters (R8). -/

namespace Sys2Proof.Machine

/-- The running XOR over a byte sequence, from zero (R92, R95). -/
def xorAll (bs : List Byte) : Byte := bs.foldl (· ^^^ ·) 0

/-- `P_XOR` (R8). -/
def pXor (c : Config) : Byte := xorAll c.pre

/-- `MAX_STORED = 254 - K` (R8). -/
def maxStored (c : Config) : Nat := 254 - c.k

/-- `MIN_STORED = MIN_FRAME_LEN - K - 1` (R8). -/
def minStored (c : Config) : Nat := c.minFrameLen - c.k - 1

/-- `IDXW(N)`, the least `w` with `2^w > N` (R8). -/
def idxw (n : Nat) : Nat := if n = 0 then 0 else n.log2 + 1

/-- The number of payload bytes of a frame whose length byte is `l` (R91). -/
def payloadCount (c : Config) (l : Byte) : Nat := l.toNat - c.k - 2

/-- `remaining`, payload and checksum bytes to come after the length byte `l`; also the number of stored bytes (R91). -/
def remainingAfter (c : Config) (l : Byte) : Nat := l.toNat - c.k - 1

/-- A length byte the Parser accepts (R91). -/
abbrev legalLength (c : Config) (l : Byte) : Prop := c.minFrameLen ≤ l.toNat

/-- A well-formed frame (R96). -/
abbrev WellFormedFrame (c : Config) (f : List Byte) : Prop :=
  c.minFrameLen ≤ f.length ∧ f.length ≤ 255 ∧ f.take c.k = c.pre ∧
  f[c.k]? = some (BitVec.ofNat 8 f.length) ∧ xorAll f = 0

/-- The stored bytes `f[K .. n-2]` of a frame of `n` bytes (R94, R96). -/
def storedBytes (c : Config) (f : List Byte) : List Byte := (f.drop c.k).dropLast

/-- What the Framer emits for a Buffer with unread content `content` (R225). -/
def emittedFrame (c : Config) (content : List Byte) : List Byte :=
  c.pre ++ content ++ [xorAll (c.pre ++ content)]

end Sys2Proof.Machine
end

