-- ==== Sys2Proof/Machine/Ops.lean ====
section
/-! DEFINITION. The shared operations: the result of an operation's rule (R11), storage access (R60), register updates,
raising a fault (R15, R44, R257), the Parser's error report with the entry to recovery and the way out of it
(R199, R201, R244, R246, R247), reset (R270) and the response word (R102). -/

namespace Sys2Proof.Machine

/-! ### Results -/

/-- The outcome of an operation that was performed (R11): `OK(v)`, with 0x00 where there is no result, `NONE`, `FULL`. -/
inductive Reply where
  | ok (v : Byte)
  | none
  | full
  deriving DecidableEq, Repr

/-- Why an operation ends with nothing performed: `HOLD` or `FAULT(f)` of R11, or the model's own stops. -/
inductive Abort where
  | hold
  | fault (f : FaultName)
  | stop (f : Fault)
  | refuse (r : Refusal)
  deriving DecidableEq, Repr

/-- What a rule's pseudocode does to a state: it is performed, or it ends before it is performed. -/
inductive Res (α : Type) where
  | done (v : α) (s : State)
  | abort (a : Abort)
  deriving DecidableEq, Repr

/-- One piece of pseudocode after another within the same atomic step (R15); an
operation called inside another ends it where it ends itself. DEDUCED, log entry 10. -/
def Res.bind {α β : Type} (r : Res α) (k : α → State → Res β) : Res β :=
  match r with
  | .done v s => k v s
  | .abort a => .abort a

/-- `hold unless c` (R15). -/
def holdUnless {α : Type} (c : Prop) [Decidable c] (k : Res α) : Res α := if c then k else .abort .hold

/-- `if not c: raise Fault(f)` (R15). -/
def faultUnless {α : Type} (c : Prop) [Decidable c] (f : FaultName) (k : Res α) : Res α :=
  if c then k else .abort (.fault f)

/-! ### Registers and storage -/

/-- Write the registers of the Buffer `h` (R20). -/
def State.setBuf (s : State) (h : Handle) (b : Buf) : State := { s with bufs := s.bufs.set (bufIndex h) b }

/-- Write `owner[p]` of the pool Buffer `h` (R28). -/
def State.setOwner (s : State) (h : Handle) (o : Owner) : State := { s with owner := s.owner.set (poolIndex h) o }

/-- Flip `db[d].aw` (R147). -/
def State.flipAw (s : State) : DbSel → State
  | .ing => { s with awIng := !s.awIng }
  | .egr => { s with awEgr := !s.awEgr }

/-- `MemRead(h:i, 1)` (R14). -/
def memRead (h : Handle) (i : Nat) (s : State) : Res Byte :=
  if s.addrExists h i then .done (s.byteAt h i) s else .abort (.stop .noSuchAddress)

/-- `MemWrite(h:i, 1, b)` (R14). -/
def memWrite (h : Handle) (i : Nat) (b : Byte) (s : State) : Res Unit :=
  if s.addrExists h i then .done () { s with mem := s.mem.write (addr h i) b } else .abort (.stop .noSuchAddress)

/-! ### Access rights -/

/-- The handle names a Buffer, else the command is reserved (R108, R104). DEDUCED, log entry 12. -/
def legalHandle {α : Type} (h : Handle) (s : State) (k : Res α) : Res α :=
  faultUnless (isLegalHandle s.cfg h) .reserved k

/-- The issuer owns the Buffer, else `F_OWNERSHIP`; a reserved handle comes first (R256, R248). -/
def owning {α : Type} (a : Agent) (h : Handle) (s : State) (k : Res α) : Res α :=
  legalHandle h s (faultUnless (s.agentOwning h = some a) .ownership k)

/-- The issuer is one the operation is listed for, else `F_OWNERSHIP` (R100, R108, R256). -/
def issuedBy {α : Type} (a : Agent) (allowed : List Agent) (k : Res α) : Res α :=
  faultUnless (a ∈ allowed) .ownership k

/-! ### Faults and protocol errors -/

/-- `FAULT` with the bit of `f` set and every other bit as it was (R44). -/
def State.raise (s : State) (f : FaultName) : State := { s with fault := s.fault ||| f.mask }

/-- A protocol error (R240). -/
inductive ProtocolError where
  | preambleMismatch (i : Nat)
  | frameTooShort
  | checksumMismatch
  deriving DecidableEq, Repr

/-- The error code: kind in `code[7:6]`, argument in `code[5:0]` (R241). -/
def ProtocolError.code : ProtocolError → Byte
  | .preambleMismatch i => 0x40 + BitVec.ofNat 8 i
  | .frameTooShort => 0x80
  | .checksumMismatch => 0xC0

/-- `raise ProtocolError(e)`: the arm holds while `ERRQ` is full, else the code is pushed and the arm goes on (R244). -/
def raiseProtocolError {α : Type} (e : ProtocolError) (s : State) (k : State → Res α) : Res α :=
  holdUnless (s.errq.length < s.cfg.errqDepth) (k { s with errq := s.errq ++ [e.code] })

/-- How many preamble bytes are matched after the byte `b`, when `i` were before (R199). -/
def scanIndex (c : Config) (i : Nat) (b : Byte) : Nat :=
  if c.pre[i]? = some b then i + 1
  else if 0 < i ∧ c.pre[0]? = some b then 1
  else 0

/-- The recovery scan: a full match is the way out of `ErrorRecovery`, to `ReadLength` with `P_XOR` (R199, R247). -/
def scan (i : Nat) (b : Byte) (s : State) : State :=
  if scanIndex s.cfg i b = s.cfg.k then { s with pacc := pXor s.cfg, pstate := .readLength }
  else { s with pstate := .errorRecovery (scanIndex s.cfg i b) }

/-- `enter_recovery(b)`: what every error arm does after its report (R201, R246). -/
def enterRecovery (b : Byte) (s : State) : State := scan 0 b { s with pacc := 0 }

/-! ### Reset -/

/-- Every register at its value of R50; parameters, ports and waiting events are no registers and stay (R270). -/
def State.resetRegisters (s : State) : State :=
  { State.resetOf s.cfg with
    rsp := s.rsp, port := s.port, pick := s.pick, pending := s.pending, epoch := s.epoch + 1 }

/-! ### Responses -/

/-- The response word on an agent's port (R102). -/
def RspPorts.get (r : RspPorts) : Agent → RspWord
  | .rx => r.rx
  | .parser => r.parser
  | .framer => r.framer
  | .tx => r.tx
  | .host => r.host

/-- Put a response word on an agent's port (R102, D2). -/
def RspPorts.set (r : RspPorts) : Agent → RspWord → RspPorts
  | .rx, w => { r with rx := w }
  | .parser, w => { r with parser := w }
  | .framer, w => { r with framer := w }
  | .tx, w => { r with tx := w }
  | .host, w => { r with host := w }

/-- The state with a response word on the port being served. -/
def State.answer (s : State) (w : RspWord) : State := { s with rsp := s.rsp.set s.port w }

/-- `status` and `value` as a response word (R102). -/
def rspWord (status value : Byte) : RspWord := status ++ value

/-- The response word of a performed operation (R102). -/
def Reply.word : Reply → RspWord
  | .ok v => rspWord 0x00 v
  | .none => rspWord 0x01 0
  | .full => rspWord 0x02 0

/-- The response word `HOLD` (R102). -/
def holdWord : RspWord := rspWord 0x03 0

/-- The response word `FAULT`, with the number of the fault's bit (R102). -/
def FaultName.word (f : FaultName) : RspWord := rspWord 0xFF (BitVec.ofNat 8 f.bit)

/-- TAKING A FAULT: the bit is set, the response names it, nothing else changes (R11, R15, R257). -/
def takeFault (s : State) (f : FaultName) : State := (s.raise f).answer f.word

/-- The end of an operation on the state `s` it started from (R11): what it performed stands, or nothing but the
response (`HOLD`) or the fault bit and the response (`FAULT`). -/
def respond (s : State) : Res Reply → Host.Outcome State Fault Refusal
  | .done r s' => .next (s'.answer r.word)
  | .abort .hold => .next (s.answer holdWord)
  | .abort (.fault f) => .next (takeFault s f)
  | .abort (.stop f) => .fault f
  | .abort (.refuse r) => .refused r

end Sys2Proof.Machine
end

