-- ==== Sys2Proof/Machine/Registers.lean ====
section
/-! DEFINITION. The bit images of the state registers, as traces show them (R29, R30, R36, R112). -/

namespace Sys2Proof.Machine

/-- The tag in bits 9..8 and the argument in bits 7..0 (R30, R36). -/
def tagged (tag : BitVec 2) (arg : Nat) : BitVec 10 := tag ++ BitVec.ofNat 8 arg

/-- `pstate` as ten bits (R30). -/
def PState.bits : PState → BitVec 10
  | .seekPreamble i => tagged 0 i
  | .readLength => tagged 1 0
  | .readPayload r => tagged 2 r
  | .errorRecovery i => tagged 3 i

/-- `fstate` as ten bits (R36). -/
def FState.bits : FState → BitVec 10
  | .idle => tagged 0 0
  | .preamble i => tagged 1 i
  | .payload => tagged 2 0
  | .checksum => tagged 3 0

/-- `owner[p]` as three bits (R29). -/
def Owner.bits : Owner → BitVec 3
  | .free => 0
  | .heldParser => 1
  | .inQOut => 2
  | .heldHost => 3
  | .inQIn => 4
  | .heldFramer => 5

/-- The argument of `pstate` is in its range (R30). -/
abbrev PState.InRange (c : Config) : PState → Prop
  | .seekPreamble i => i < c.k
  | .readLength => True
  | .readPayload r => 1 ≤ r ∧ r ≤ 254 - c.k
  | .errorRecovery i => i < c.k

/-- The argument of `fstate` is in its range (R36). -/
abbrev FState.InRange (c : Config) : FState → Prop
  | .idle => True
  | .preamble i => i < c.k
  | .payload => True
  | .checksum => True

/-- A code `ERRQ` can hold (R241). -/
abbrev IsErrorCode (c : Config) (b : Byte) : Prop :=
  (0x40 ≤ b.toNat ∧ b.toNat < 0x40 + c.k) ∨ b = 0x80 ∨ b = 0xC0

end Sys2Proof.Machine
end

