-- ==== Sys2Proof/Machine/Buffer.lean ====
section
/-! DEFINITION. The Buffer operations (R120 to R128). `op…` is the operation's rule for an issuing agent, used by the
composite operations too (R15); `exec…` is the meaning of the command on the port being served. -/

namespace Sys2Proof.Machine

/-- The registers after a byte is stored: `put + 1`, and `closed` when that fills the Buffer (R120). -/
def Buf.pushed (b : Buf) (cap : Nat) : Buf :=
  { b with put := b.put + 1, closed := b.closed || decide (b.put + 1 = cap) }

/-- The registers after a byte is read: `get + 1`, and `closed` cleared when that drains the Buffer (R122). -/
def Buf.popped (b : Buf) : Buf :=
  { b with get := b.get + 1, closed := b.closed && !decide (b.put ≤ b.get + 1) }

/-- `BUF.WRITE h, b` (R120). -/
def opBufWrite (a : Agent) (h : Handle) (b : Byte) (s : State) : Res Reply :=
  owning a h s <|
    if (s.buf h).Writable (s.cap h) then
      (memWrite h (s.buf h).put b s).bind fun _ s1 =>
        .done (.ok 0) (s1.setBuf h ((s.buf h).pushed (s.cap h)))
    else .done .full s

/-- `BUF.PEEK h` (R121). -/
def opBufPeek (a : Agent) (h : Handle) (s : State) : Res Reply :=
  owning a h s <|
    if (s.buf h).Empty then .done .none s
    else (memRead h (s.buf h).get s).bind fun v s1 => .done (.ok v) s1

/-- `BUF.READ h` (R122). -/
def opBufRead (a : Agent) (h : Handle) (s : State) : Res Reply :=
  owning a h s <|
    if (s.buf h).Empty then .done .none s
    else (memRead h (s.buf h).get s).bind fun v s1 => .done (.ok v) (s1.setBuf h (s.buf h).popped)

/-- `BUF.CLOSE h` (R123). -/
def opBufClose (a : Agent) (h : Handle) (s : State) : Res Reply :=
  owning a h s <| .done (.ok 0) (s.setBuf h { s.buf h with closed := true })

/-- `BUF.OPEN h` (R124). -/
def opBufOpen (a : Agent) (h : Handle) (s : State) : Res Reply :=
  owning a h s <| .done (.ok 0) (s.setBuf h { s.buf h with closed := false })

/-- `BUF.RESET h` (R125); the storage is not cleared. -/
def opBufReset (a : Agent) (h : Handle) (s : State) : Res Reply :=
  owning a h s <| .done (.ok 0) (s.setBuf h Buf.empty)

/-- `BUF.ISCLOSED h` (R126). -/
def opBufIsclosed (h : Handle) (s : State) : Res Reply :=
  legalHandle h s <| .done (.ok (truthByte (s.buf h).closed)) s

/-- `BUF.ISEMPTY h` (R127). -/
def opBufIsempty (h : Handle) (s : State) : Res Reply :=
  legalHandle h s <| .done (.ok (truthByte (decide (s.buf h).Empty))) s

/-- `BUF.WRITE h, b` (R120). -/
def execBufWrite (h : Handle) (b : Byte) (s : State) : Host.Outcome State Fault Refusal :=
  respond s (opBufWrite s.port h b s)

/-- `BUF.PEEK h` (R121). -/
def execBufPeek (h : Handle) (s : State) : Host.Outcome State Fault Refusal :=
  respond s (opBufPeek s.port h s)

/-- `BUF.READ h` (R122). -/
def execBufRead (h : Handle) (s : State) : Host.Outcome State Fault Refusal :=
  respond s (opBufRead s.port h s)

/-- `BUF.CLOSE h` (R123). -/
def execBufClose (h : Handle) (s : State) : Host.Outcome State Fault Refusal :=
  respond s (opBufClose s.port h s)

/-- `BUF.OPEN h` (R124). -/
def execBufOpen (h : Handle) (s : State) : Host.Outcome State Fault Refusal :=
  respond s (opBufOpen s.port h s)

/-- `BUF.RESET h` (R125). -/
def execBufReset (h : Handle) (s : State) : Host.Outcome State Fault Refusal :=
  respond s (opBufReset s.port h s)

/-- `BUF.ISCLOSED h` (R126). -/
def execBufIsclosed (h : Handle) (s : State) : Host.Outcome State Fault Refusal :=
  respond s (opBufIsclosed h s)

/-- `BUF.ISEMPTY h` (R127). -/
def execBufIsempty (h : Handle) (s : State) : Host.Outcome State Fault Refusal :=
  respond s (opBufIsempty h s)

end Sys2Proof.Machine
end

