-- ==== Sys2Proof/Machine/DoubleBuffer.lean ====
section
/-! DEFINITION. The DoubleBuffer operations (R140 to R148). -/

namespace Sys2Proof.Machine

/-- `DB.WHANDLE d` (R141). -/
def opDbWhandle (d : DbSel) (s : State) : Res Reply := .done (.ok (s.wh d)) s

/-- `DB.RHANDLE d` (R142). -/
def opDbRhandle (d : DbSel) (s : State) : Res Reply := .done (.ok (s.rh d)) s

/-- `DB.PUT d, b`: the producer's `BUF.WRITE` on the write buffer (R143). -/
def opDbPut (a : Agent) (d : DbSel) (b : Byte) (s : State) : Res Reply :=
  issuedBy a [producer d] (opBufWrite a (s.wh d) b s)

/-- `DB.PEEK d`: the consumer's `BUF.PEEK` on the read buffer (R144). -/
def opDbPeek (a : Agent) (d : DbSel) (s : State) : Res Reply :=
  issuedBy a [consumer d] (opBufPeek a (s.rh d) s)

/-- `DB.TAKE d`: the consumer's `BUF.READ` on the read buffer (R145). -/
def opDbTake (a : Agent) (d : DbSel) (s : State) : Res Reply :=
  issuedBy a [consumer d] (opBufRead a (s.rh d) s)

/-- `DB.SWAPPABLE d` (R146). -/
def opDbSwappable (d : DbSel) (s : State) : Res Reply :=
  .done (.ok (truthByte (decide (s.Swappable d)))) s

/-- The pair with the selector flipped and the new write buffer reset: the effect of a swap, which needs no further
right (R147, R256). -/
def State.swapped (s : State) (d : DbSel) : State := (s.flipAw d).setBuf (s.rh d) Buf.empty

/-- `DB.SWAP d` (R147). -/
def opDbSwap (a : Agent) (d : DbSel) (s : State) : Res Reply :=
  issuedBy a [swapOwner d] <|
    faultUnless (s.Swappable d) .swap <|
      .done (.ok 0) (s.swapped d)

/-- `DB.WHANDLE d` (R141). -/
def execDbWhandle (d : DbSel) (s : State) : Host.Outcome State Fault Refusal := respond s (opDbWhandle d s)

/-- `DB.RHANDLE d` (R142). -/
def execDbRhandle (d : DbSel) (s : State) : Host.Outcome State Fault Refusal := respond s (opDbRhandle d s)

/-- `DB.PUT d, b` (R143). -/
def execDbPut (d : DbSel) (b : Byte) (s : State) : Host.Outcome State Fault Refusal :=
  respond s (opDbPut s.port d b s)

/-- `DB.PEEK d` (R144). -/
def execDbPeek (d : DbSel) (s : State) : Host.Outcome State Fault Refusal :=
  respond s (opDbPeek s.port d s)

/-- `DB.TAKE d` (R145). -/
def execDbTake (d : DbSel) (s : State) : Host.Outcome State Fault Refusal :=
  respond s (opDbTake s.port d s)

/-- `DB.SWAPPABLE d` (R146). -/
def execDbSwappable (d : DbSel) (s : State) : Host.Outcome State Fault Refusal :=
  respond s (opDbSwappable d s)

/-- `DB.SWAP d` (R147). -/
def execDbSwap (d : DbSel) (s : State) : Host.Outcome State Fault Refusal :=
  respond s (opDbSwap s.port d s)

end Sys2Proof.Machine
end

