-- ==== Sys2Proof/Machine/Pool.lean ====
section
/-! DEFINITION. The BufferPool operations (R160 to R163). -/

namespace Sys2Proof.Machine

/-- The owner value of a Buffer just allocated (R161). -/
def allocOwner (a : Agent) : Owner := if a = .parser then .heldParser else .heldHost

/-- `POOL[p]` handed out to `a`: taken from the pool and reset (R161). -/
def State.allocated (s : State) (a : Agent) (p : Nat) : State :=
  (({ s with avail := s.avail - 1 }).setOwner (poolHandle p) (allocOwner a)).setBuf (poolHandle p) Buf.empty

/-- `POOL.ALLOC` and the handle it gives (R161); which free Buffer is the step's free input. -/
def allocate (a : Agent) (s : State) : Res Handle :=
  issuedBy a [.parser, .host] <|
    holdUnless (0 < s.avail) <|
      match pickFree s.owner s.pick with
      | some p => .done (poolHandle p) (s.allocated a p)
      | none => .abort (.stop .noFreeBuffer)

/-- `POOL.ALLOC` (R161). -/
def opPoolAlloc (a : Agent) (s : State) : Res Reply := (allocate a s).bind fun h s1 => .done (.ok h) s1

/-- `POOL.FREE h` (R162): the Buffer's registers stay as they are. -/
def opPoolFree (a : Agent) (h : Handle) (s : State) : Res Reply :=
  faultUnless (isPoolHandle s.cfg h) .reserved <|
    faultUnless ((s.ownerOf h).isSome ∧ s.ownerOf h = heldBy a) .ownership <|
      .done (.ok 0) { s.setOwner h .free with avail := s.avail + 1 }

/-- `POOL.ALLOC` (R161). -/
def execPoolAlloc (s : State) : Host.Outcome State Fault Refusal := respond s (opPoolAlloc s.port s)

/-- `POOL.FREE h` (R162). -/
def execPoolFree (h : Handle) (s : State) : Host.Outcome State Fault Refusal :=
  respond s (opPoolFree s.port h s)

end Sys2Proof.Machine
end

