-- ==== Sys2Proof/Machine/Transport.lean ====
section
/-! DEFINITION. The transport operations on the two DoubleBuffers (R170 to R178). -/

namespace Sys2Proof.Machine

/-- Swap if swappable, by the swap owner (R173 to R176, R221). -/
def swapIfReady (d : DbSel) (s : State) : Res Unit :=
  if s.Swappable d then (opDbSwap (swapOwner d) d s).bind fun _ s1 => .done () s1 else .done () s

/-- Close the write buffer if it is open and holds a byte, then swap if swappable (R175, R176). -/
def closeAndSwap (d : DbSel) (s : State) : Res Reply :=
  (if (s.buf (s.wh d)).closed = false ∧ 0 < (s.buf (s.wh d)).put then
      (opBufClose (producer d) (s.wh d) s).bind fun _ s1 => .done () s1
    else .done () s).bind fun _ s1 =>
      (swapIfReady d s1).bind fun _ s2 => .done (.ok 0) s2

/-- `TR.NEXT` (R172). -/
def opTrNext (a : Agent) (s : State) : Res Reply :=
  issuedBy a [.parser] <|
    holdUnless (¬ (s.buf (s.rh .ing)).Empty) <|
      opDbTake a .ing s

/-- `TR.PUTB b` (R173). The outcome of the inner `DB.PUT` is not looked at. DESIGN CHOICE, log entry 8. -/
def opTrPutb (a : Agent) (b : Byte) (s : State) : Res Reply :=
  issuedBy a [.framer] <|
    holdUnless s.CanSend <|
      (if (s.buf (s.wh .egr)).closed = true then
          (opDbSwap a .egr s).bind fun _ s1 => .done () s1
        else .done () s).bind fun _ s1 =>
          (opDbPut a .egr b s1).bind fun _ s2 =>
            (swapIfReady .egr s2).bind fun _ s3 => .done (.ok 0) s3

/-- `TR.RXBYTE b` (R174). The outcome of the inner `DB.PUT` is not looked at. DESIGN CHOICE, log entry 8. -/
def opTrRxbyte (a : Agent) (b : Byte) (s : State) : Res Reply :=
  issuedBy a [.rx] <|
    (if (s.buf (s.wh .ing)).closed = true then
        faultUnless (s.Swappable .ing) .rxOverrun <|
          (opDbSwap a .ing s).bind fun _ s1 => .done () s1
      else .done () s).bind fun _ s1 =>
        (opDbPut a .ing b s1).bind fun _ s2 =>
          (swapIfReady .ing s2).bind fun _ s3 => .done (.ok 0) s3

/-- `TR.RXTMO` (R175). -/
def opTrRxtmo (a : Agent) (s : State) : Res Reply := issuedBy a [.rx] (closeAndSwap .ing s)

/-- `TR.FLUSH` (R176); issued by `A_HOST` it is carried out as if `A_FRAMER` had issued it (R171). -/
def opTrFlush (a : Agent) (s : State) : Res Reply := issuedBy a [.framer, .host] (closeAndSwap .egr s)

/-- The `TX` trace with what a performed `TR.TXBYTE` returned (R43, R177). -/
def State.sent (s : State) : Reply → State
  | .ok v => { s with tx := s.tx ++ [v] }
  | .none => s
  | .full => s

/-- `TR.TXBYTE` (R177). -/
def opTrTxbyte (a : Agent) (s : State) : Res Reply :=
  issuedBy a [.tx] <|
    holdUnless (¬ (s.buf (s.rh .egr)).Empty) <|
      (opDbTake a .egr s).bind fun r s1 => .done r (s1.sent r)

/-- The `RX` trace with a byte the link gave: every `TR.RXBYTE` of `A_RX`, also one whose byte is dropped (R43).
DEDUCED, log entry 7. -/
def State.received (s : State) (b : Byte) : State :=
  if s.port = .rx then { s with rx := s.rx ++ [b] } else s

/-- `TR.NEXT` (R172). -/
def execTrNext (s : State) : Host.Outcome State Fault Refusal := respond s (opTrNext s.port s)

/-- `TR.PUTB b` (R173). -/
def execTrPutb (b : Byte) (s : State) : Host.Outcome State Fault Refusal := respond s (opTrPutb s.port b s)

/-- `TR.FLUSH` (R176). -/
def execTrFlush (s : State) : Host.Outcome State Fault Refusal := respond s (opTrFlush s.port s)

/-- `TR.RXBYTE b` (R174). -/
def execTrRxbyte (b : Byte) (s : State) : Host.Outcome State Fault Refusal :=
  respond (s.received b) (opTrRxbyte s.port b (s.received b))

/-- `TR.RXTMO` (R175). -/
def execTrRxtmo (s : State) : Host.Outcome State Fault Refusal := respond s (opTrRxtmo s.port s)

/-- `TR.TXBYTE` (R177). -/
def execTrTxbyte (s : State) : Host.Outcome State Fault Refusal := respond s (opTrTxbyte s.port s)

end Sys2Proof.Machine
end

