-- ==== Sys2Proof/Machine/Parser.lean ====
section
/-! DEFINITION. The Parser (R190 to R202). `PAR.EXEC` has one arm per state; an arm is performed whole or not at all. -/

namespace Sys2Proof.Machine

/-- `BUF.WRITE(h, b)` by the Parser, where `FULL` is the fault of R197. -/
def storeByte (h : Handle) (b : Byte) (s : State) : Res Unit :=
  (opBufWrite .parser h b s).bind fun r s1 => faultUnless (r ≠ .full) .payloadOverflow (.done () s1)

/-- Arm `SeekPreamble(i)` (R193). -/
def parSeekPreamble (i : Nat) (b : Byte) (s : State) : Res Unit :=
  match s.cfg.pre[i]? with
  | none => .abort (.refuse .unreachableState)
  | some p =>
    if b = p then
      .done () { s with
        pacc := s.pacc ^^^ b
        pstate := if i + 1 = s.cfg.k then .readLength else .seekPreamble (i + 1) }
    else raiseProtocolError (.preambleMismatch i) s fun s1 => .done () (enterRecovery b s1)

/-- Arm `ReadLength`, byte below the minimum (R194). -/
def parLengthShort (b : Byte) (s : State) : Res Unit :=
  raiseProtocolError .frameTooShort s fun s1 => .done () (enterRecovery b s1)

/-- Arm `ReadLength`, legal byte (R195). -/
def parLengthLegal (b : Byte) (s : State) : Res Unit :=
  holdUnless (0 < s.avail) <|
    (allocate .parser { s with pacc := s.pacc ^^^ b }).bind fun h s1 =>
      (storeByte h b { s1 with pcur := some h }).bind fun _ s2 =>
        .done () { s2 with pstate := .readPayload (remainingAfter s.cfg b) }

/-- Arm `ReadPayload(r)` with `r > 1`: a data byte (R196). -/
def parPayloadData (r : Nat) (b : Byte) (h : Handle) (s : State) : Res Unit :=
  (storeByte h b { s with pacc := s.pacc ^^^ b }).bind fun _ s1 =>
    .done () { s1 with pstate := .readPayload (r - 1) }

/-- Arm `ReadPayload(1)`, the checksum byte, and it verifies: it is not stored (R196). -/
def parChecksumGood (h : Handle) (s : State) : Res Unit :=
  (opBufClose .parser h { s with pacc := 0 }).bind fun _ s1 =>
    .done () { s1.setOwner h .inQOut with qOut := s1.qOut ++ [h], pcur := none, pstate := .seekPreamble 0 }

/-- Arm `ReadPayload(1)`, bad checksum byte (R198). -/
def parChecksumBad (b : Byte) (h : Handle) (s : State) : Res Unit :=
  raiseProtocolError .checksumMismatch s fun s1 =>
    (opPoolFree .parser h s1).bind fun _ s2 => .done () (enterRecovery b { s2 with pcur := none })

/-- Arm `ReadPayload(r)` (R196 to R198). `ReadPayload(0)` and an invalid `pcur` are not reachable (U19, R32). -/
def parReadPayload (r : Nat) (b : Byte) (s : State) : Res Unit :=
  match r, s.pcur with
  | 0, _ => .abort (.refuse .unreachableState)
  | _, none => .abort (.refuse .unreachableState)
  | 1, some h => if checksumGood s.pacc b then parChecksumGood h s else parChecksumBad b h s
  | r, some h => parPayloadData r b h s

/-- Arm `ErrorRecovery(i)` (R200). DEDUCED, log entry 18. -/
def parErrorRecovery (i : Nat) (b : Byte) (s : State) : Res Unit :=
  if i < s.cfg.k then .done () (scan i b { s with pacc := s.pacc ^^^ b })
  else .abort (.refuse .unreachableState)

/-- The arm of the Parser's state (R192). -/
def parArm (b : Byte) (s : State) : Res Unit :=
  match s.pstate with
  | .seekPreamble i => parSeekPreamble i b s
  | .readLength => if legalLength s.cfg b then parLengthLegal b s else parLengthShort b s
  | .readPayload r => parReadPayload r b s
  | .errorRecovery i => parErrorRecovery i b s

/-- `PAR.FETCH` (R191). -/
def opParFetch (a : Agent) (s : State) : Res Reply :=
  issuedBy a [.parser] <|
    holdUnless (s.platch = none) <|
      holdUnless (¬ (s.buf (s.rh .ing)).Empty) <|
        (opTrNext a s).bind fun r s1 =>
          match r with
          | .ok v => .done (.ok 0) { s1 with platch := some v }
          | .none => .abort .hold
          | .full => .abort .hold

/-- `PAR.EXEC` (R192). -/
def opParExec (a : Agent) (s : State) : Res Reply :=
  issuedBy a [.parser] <|
    match s.platch with
    | none => .abort .hold
    | some b => (parArm b s).bind fun _ s1 => .done (.ok 0) { s1 with platch := none }

/-- `PAR.FETCH` (R191). -/
def execParFetch (s : State) : Host.Outcome State Fault Refusal := respond s (opParFetch s.port s)

/-- `PAR.EXEC` (R192). -/
def execParExec (s : State) : Host.Outcome State Fault Refusal := respond s (opParExec s.port s)

end Sys2Proof.Machine
end

