-- ==== Sys2Proof/Machine/Framer.lean ====
section
/-! DEFINITION. The Framer (R220 to R228): at most one byte to the egress DoubleBuffer per step. -/

namespace Sys2Proof.Machine

/-- `TR.PUTB(b)` by the Framer and `facc <- facc xor b`, then `fstate` (R222, R223). -/
def sendAndCount (b : Byte) (next : State → FState) (s : State) : Res Unit :=
  (opTrPutb .framer b s).bind fun _ s1 => .done () { s1 with facc := s1.facc ^^^ b, fstate := next s1 }

/-- Arm `Idle`: a pending swap, then the pop of `Q_IN`; holds when there is neither (R221). -/
def frmIdle (s : State) : Res Unit :=
  (swapIfReady .egr s).bind fun _ s1 =>
    match s1.qIn with
    | h :: rest =>
      .done () { s1.setOwner h .heldFramer with qIn := rest, fcur := some h, facc := 0, fstate := .preamble 0 }
    | [] => holdUnless (s.Swappable .egr) (.done () s1)

/-- Where the Framer goes from a byte sent with Buffer `h` at hand: `Checksum` when it is drained (R222, R223). -/
def payloadOrChecksum (h : Handle) (s : State) : FState :=
  if (s.buf h).Empty then .checksum else .payload

/-- Arm `Preamble(i)` (R222). -/
def frmPreamble (i : Nat) (h : Handle) (s : State) : Res Unit :=
  match s.cfg.pre[i]? with
  | none => .abort (.refuse .unreachableState)
  | some p =>
    holdUnless s.CanSend <|
      sendAndCount p (fun s1 => if i + 1 < s.cfg.k then .preamble (i + 1) else payloadOrChecksum h s1) s

/-- Arm `Payload` (R223). `NONE` from the read is the case the rule's remark excludes without giving a value. -/
def frmPayload (h : Handle) (s : State) : Res Unit :=
  holdUnless s.CanSend <|
    (opBufRead .framer h s).bind fun r s1 =>
      let b := match r with
        | .ok v => v
        | .none => Config.emptyPayloadByte s.pick
        | .full => Config.emptyPayloadByte s.pick
      sendAndCount b (payloadOrChecksum h) s1

/-- Arm `Checksum` (R224). -/
def frmChecksum (h : Handle) (s : State) : Res Unit :=
  holdUnless s.CanSend <|
    (opTrPutb .framer s.facc s).bind fun _ s1 =>
      (opPoolFree .framer h { s1 with facc := 0 }).bind fun _ s2 =>
        (opTrFlush .framer { s2 with fcur := none }).bind fun _ s3 => .done () { s3 with fstate := .idle }

/-- The arm of the Framer's state (R220). A sending state without a valid `fcur` is not reachable (R38, U19). -/
def frmArm (s : State) : Res Unit :=
  match s.fstate, s.fcur with
  | .idle, _ => frmIdle s
  | _, none => .abort (.refuse .unreachableState)
  | .preamble i, some h => frmPreamble i h s
  | .payload, some h => frmPayload h s
  | .checksum, some h => frmChecksum h s

/-- `FRM.STEP` (R220). -/
def opFrmStep (a : Agent) (s : State) : Res Reply :=
  issuedBy a [.framer] ((frmArm s).bind fun _ s1 => .done (.ok 0) s1)

/-- `FRM.POST h` (R226). DEDUCED, log entry 15. -/
def opFrmPost (a : Agent) (h : Handle) (s : State) : Res Reply :=
  faultUnless (isPoolHandle s.cfg h) .reserved <|
    issuedBy a [.host] <|
      faultUnless (s.ownerOf h = some .heldHost) .ownership <|
        faultUnless ((s.buf h).closed = true) .postOpen <|
          .done (.ok 0) { s.setOwner h .inQIn with qIn := s.qIn ++ [h] }

/-- `FRM.STEP` (R220). -/
def execFrmStep (s : State) : Host.Outcome State Fault Refusal := respond s (opFrmStep s.port s)

/-- `FRM.POST h` (R226). -/
def execFrmPost (h : Handle) (s : State) : Host.Outcome State Fault Refusal :=
  respond s (opFrmPost s.port h s)

end Sys2Proof.Machine
end

