-- ==== Sys2Proof/Machine/Queues.lean ====
section
/-! DEFINITION. The host's side of the Parser's two output queues (R203, R204). -/

namespace Sys2Proof.Machine

/-- `OUT.POP` (R203). -/
def opOutPop (a : Agent) (s : State) : Res Reply :=
  issuedBy a [.host] <|
    match s.qOut with
    | [] => .abort .hold
    | h :: rest => .done (.ok h) { s.setOwner h .heldHost with qOut := rest }

/-- `ERR.POP` (R204). -/
def opErrPop (a : Agent) (s : State) : Res Reply :=
  issuedBy a [.host] <|
    match s.errq with
    | [] => .abort .hold
    | e :: rest => .done (.ok e) { s with errq := rest }

/-- `OUT.POP` (R203). -/
def execOutPop (s : State) : Host.Outcome State Fault Refusal := respond s (opOutPop s.port s)

/-- `ERR.POP` (R204). -/
def execErrPop (s : State) : Host.Outcome State Fault Refusal := respond s (opErrPop s.port s)

end Sys2Proof.Machine
end

