-- ==== Sys2Proof/Machine/System.lean ====
section
/-! DEFINITION. `SYS.RESET` (R270). -/

namespace Sys2Proof.Machine

/-- `SYS.RESET` (R270). -/
def opSysReset (a : Agent) (s : State) : Res Reply := issuedBy a [.host] (.done (.ok 0) s.resetRegisters)

/-- `SYS.RESET` (R270). -/
def execSysReset (s : State) : Host.Outcome State Fault Refusal := respond s (opSysReset s.port s)

end Sys2Proof.Machine
end

