-- ==== Sys2Proof/Machine/Dispatch.lean ====
section
/-! DEFINITION. One arm for each operation: one direct call of its meaning. -/

namespace Sys2Proof.Machine

def exec (i : Instr) (s : State) : Host.Outcome State Fault Refusal :=
  match i with
  | .bufWrite h b => Sys2Proof.Machine.execBufWrite h b s
  | .bufPeek h => Sys2Proof.Machine.execBufPeek h s
  | .bufRead h => Sys2Proof.Machine.execBufRead h s
  | .bufClose h => Sys2Proof.Machine.execBufClose h s
  | .bufOpen h => Sys2Proof.Machine.execBufOpen h s
  | .bufReset h => Sys2Proof.Machine.execBufReset h s
  | .bufIsclosed h => Sys2Proof.Machine.execBufIsclosed h s
  | .bufIsempty h => Sys2Proof.Machine.execBufIsempty h s
  | .dbWhandle d => Sys2Proof.Machine.execDbWhandle d s
  | .dbRhandle d => Sys2Proof.Machine.execDbRhandle d s
  | .dbPut d b => Sys2Proof.Machine.execDbPut d b s
  | .dbPeek d => Sys2Proof.Machine.execDbPeek d s
  | .dbTake d => Sys2Proof.Machine.execDbTake d s
  | .dbSwappable d => Sys2Proof.Machine.execDbSwappable d s
  | .dbSwap d => Sys2Proof.Machine.execDbSwap d s
  | .poolAlloc => Sys2Proof.Machine.execPoolAlloc s
  | .poolFree h => Sys2Proof.Machine.execPoolFree h s
  | .trNext => Sys2Proof.Machine.execTrNext s
  | .trPutb b => Sys2Proof.Machine.execTrPutb b s
  | .trFlush => Sys2Proof.Machine.execTrFlush s
  | .trRxbyte b => Sys2Proof.Machine.execTrRxbyte b s
  | .trRxtmo => Sys2Proof.Machine.execTrRxtmo s
  | .trTxbyte => Sys2Proof.Machine.execTrTxbyte s
  | .parFetch => Sys2Proof.Machine.execParFetch s
  | .parExec => Sys2Proof.Machine.execParExec s
  | .frmStep => Sys2Proof.Machine.execFrmStep s
  | .frmPost h => Sys2Proof.Machine.execFrmPost h s
  | .outPop => Sys2Proof.Machine.execOutPop s
  | .errPop => Sys2Proof.Machine.execErrPop s
  | .sysReset => Sys2Proof.Machine.execSysReset s

end Sys2Proof.Machine
end

