-- ==== Sys2Proof/WellFormed.lean ====
section
/-! DEFINITION. Well-formed operations: the only check the syntax leaves open is that a handle names a Buffer of the
configuration (R104, R108). A data byte and a DoubleBuffer select have no bad value. -/

namespace Sys2Proof

/-- The operation names no reserved handle (R108). -/
def Instr.WellFormed (c : Config) : Instr → Prop
  | .bufWrite h _ => Machine.isLegalHandle c h
  | .bufPeek h => Machine.isLegalHandle c h
  | .bufRead h => Machine.isLegalHandle c h
  | .bufClose h => Machine.isLegalHandle c h
  | .bufOpen h => Machine.isLegalHandle c h
  | .bufReset h => Machine.isLegalHandle c h
  | .bufIsclosed h => Machine.isLegalHandle c h
  | .bufIsempty h => Machine.isLegalHandle c h
  | .dbWhandle _ => True
  | .dbRhandle _ => True
  | .dbPut _ _ => True
  | .dbPeek _ => True
  | .dbTake _ => True
  | .dbSwappable _ => True
  | .dbSwap _ => True
  | .poolAlloc => True
  | .poolFree h => Machine.isLegalHandle c h
  | .trNext => True
  | .trPutb _ => True
  | .trFlush => True
  | .trRxbyte _ => True
  | .trRxtmo => True
  | .trTxbyte => True
  | .parFetch => True
  | .parExec => True
  | .frmStep => True
  | .frmPost h => Machine.isLegalHandle c h
  | .outPop => True
  | .errPop => True
  | .sysReset => True

end Sys2Proof
end

