-- ==== Sys2Proof/Decode.lean ====
section
/-! DEFINITION. Decoding and encoding of the 24-bit command word (R101, R103, R106, R108).
The decoder is total: a reserved word is rejected by the name of the clause of R108 it breaks. The configuration matters
only for which pool handles exist. -/

namespace Sys2Proof

/-- Why a command word is reserved (R108). -/
inductive DecodeError where
  /-- `op` is not in the map of R106. -/
  | unknownOpcode
  /-- `a1` is not used by the operation and is not zero. -/
  | unusedA1
  /-- `a0` is not used by the operation and is not zero. -/
  | unusedA0
  /-- `a1` is a DoubleBuffer select and `a1[7:1]` is not zero. -/
  | selectBits
  /-- `a1` is a handle that names no Buffer. -/
  | reservedHandle
  deriving DecidableEq, Repr

/-- The field `op`, `cmd[23:16]` (R101). -/
def opField (w : CmdWord) : Byte := w.extractLsb' 16 8

/-- The field `a1`, `cmd[15:8]` (R101). -/
def a1Field (w : CmdWord) : Byte := w.extractLsb' 8 8

/-- The field `a0`, `cmd[7:0]` (R101). -/
def a0Field (w : CmdWord) : Byte := w.extractLsb' 0 8

/-- The word with the three fields `op`, `a1` and `a0` (R101). -/
def wordOf (op a1 a0 : Byte) : CmdWord := op ++ a1 ++ a0

/-- Which operands an operation takes from `a1` and `a0` (R106). -/
inductive Form where
  | handle (mk : Handle → Instr)
  | handleByte (mk : Handle → Byte → Instr)
  | select (mk : DbSel → Instr)
  | selectByte (mk : DbSel → Byte → Instr)
  | byte (mk : Byte → Instr)
  | plain (i : Instr)

/-- The opcode map of R106. -/
def formOf (op : Byte) : Option Form :=
  match op.toNat with
  | 0x01 => some (.handleByte .bufWrite)
  | 0x02 => some (.handle .bufPeek)
  | 0x03 => some (.handle .bufRead)
  | 0x04 => some (.handle .bufClose)
  | 0x05 => some (.handle .bufOpen)
  | 0x06 => some (.handle .bufReset)
  | 0x07 => some (.handle .bufIsclosed)
  | 0x08 => some (.handle .bufIsempty)
  | 0x10 => some (.select .dbWhandle)
  | 0x11 => some (.select .dbRhandle)
  | 0x12 => some (.selectByte .dbPut)
  | 0x13 => some (.select .dbPeek)
  | 0x14 => some (.select .dbTake)
  | 0x15 => some (.select .dbSwappable)
  | 0x16 => some (.select .dbSwap)
  | 0x20 => some (.plain .poolAlloc)
  | 0x21 => some (.handle .poolFree)
  | 0x30 => some (.plain .trNext)
  | 0x31 => some (.byte .trPutb)
  | 0x32 => some (.plain .trFlush)
  | 0x33 => some (.byte .trRxbyte)
  | 0x34 => some (.plain .trRxtmo)
  | 0x35 => some (.plain .trTxbyte)
  | 0x40 => some (.plain .parFetch)
  | 0x41 => some (.plain .parExec)
  | 0x50 => some (.plain .frmStep)
  | 0x51 => some (.handle .frmPost)
  | 0x60 => some (.plain .outPop)
  | 0x61 => some (.plain .errPop)
  | 0x70 => some (.plain .sysReset)
  | _ => none

/-- A handle operand: it must name a Buffer of the configuration (R104, R108). -/
def readHandle (c : Config) (a1 : Byte) : Except DecodeError Handle :=
  if Machine.isLegalHandle c a1 then .ok a1 else .error .reservedHandle

/-- A DoubleBuffer select: bit 0 of `a1`, the other bits zero (R103). -/
def readSelect (a1 : Byte) : Except DecodeError DbSel :=
  if a1 = 0 then .ok .ing else if a1 = 1 then .ok .egr else .error .selectBits

/-- An unused `a1` is zero (R103). -/
def unusedA1 (a1 : Byte) (i : Instr) : Except DecodeError Instr :=
  if a1 = 0 then .ok i else .error .unusedA1

/-- An unused `a0` is zero (R103). -/
def unusedA0 (a0 : Byte) (i : Instr) : Except DecodeError Instr :=
  if a0 = 0 then .ok i else .error .unusedA0

/-- The operation a command word stands for, or the clause of R108 that makes it reserved. -/
def decode (c : Config) (w : CmdWord) : Except DecodeError Instr :=
  match formOf (opField w) with
  | none => .error .unknownOpcode
  | some (.handle mk) => (readHandle c (a1Field w)).bind fun h => unusedA0 (a0Field w) (mk h)
  | some (.handleByte mk) => (readHandle c (a1Field w)).map fun h => mk h (a0Field w)
  | some (.select mk) => (readSelect (a1Field w)).bind fun d => unusedA0 (a0Field w) (mk d)
  | some (.selectByte mk) => (readSelect (a1Field w)).map fun d => mk d (a0Field w)
  | some (.byte mk) => unusedA1 (a1Field w) (mk (a0Field w))
  | some (.plain i) => (unusedA1 (a1Field w) i).bind (unusedA0 (a0Field w))

/-- The opcode of an operation (R106). -/
def opcodeOf : Instr → Byte
  | .bufWrite _ _ => 0x01
  | .bufPeek _ => 0x02
  | .bufRead _ => 0x03
  | .bufClose _ => 0x04
  | .bufOpen _ => 0x05
  | .bufReset _ => 0x06
  | .bufIsclosed _ => 0x07
  | .bufIsempty _ => 0x08
  | .dbWhandle _ => 0x10
  | .dbRhandle _ => 0x11
  | .dbPut _ _ => 0x12
  | .dbPeek _ => 0x13
  | .dbTake _ => 0x14
  | .dbSwappable _ => 0x15
  | .dbSwap _ => 0x16
  | .poolAlloc => 0x20
  | .poolFree _ => 0x21
  | .trNext => 0x30
  | .trPutb _ => 0x31
  | .trFlush => 0x32
  | .trRxbyte _ => 0x33
  | .trRxtmo => 0x34
  | .trTxbyte => 0x35
  | .parFetch => 0x40
  | .parExec => 0x41
  | .frmStep => 0x50
  | .frmPost _ => 0x51
  | .outPop => 0x60
  | .errPop => 0x61
  | .sysReset => 0x70

/-- The field `a1` of an operation: its handle, its select, or zero (R106). -/
def a1Of : Instr → Byte
  | .bufWrite h _ => h
  | .bufPeek h => h
  | .bufRead h => h
  | .bufClose h => h
  | .bufOpen h => h
  | .bufReset h => h
  | .bufIsclosed h => h
  | .bufIsempty h => h
  | .dbWhandle d => Machine.selByte d
  | .dbRhandle d => Machine.selByte d
  | .dbPut d _ => Machine.selByte d
  | .dbPeek d => Machine.selByte d
  | .dbTake d => Machine.selByte d
  | .dbSwappable d => Machine.selByte d
  | .dbSwap d => Machine.selByte d
  | .poolAlloc => 0
  | .poolFree h => h
  | .trNext => 0
  | .trPutb _ => 0
  | .trFlush => 0
  | .trRxbyte _ => 0
  | .trRxtmo => 0
  | .trTxbyte => 0
  | .parFetch => 0
  | .parExec => 0
  | .frmStep => 0
  | .frmPost h => h
  | .outPop => 0
  | .errPop => 0
  | .sysReset => 0

/-- The field `a0` of an operation: its data byte, or zero (R106). -/
def a0Of : Instr → Byte
  | .bufWrite _ b => b
  | .dbPut _ b => b
  | .trPutb b => b
  | .trRxbyte b => b
  | .bufPeek _ => 0
  | .bufRead _ => 0
  | .bufClose _ => 0
  | .bufOpen _ => 0
  | .bufReset _ => 0
  | .bufIsclosed _ => 0
  | .bufIsempty _ => 0
  | .dbWhandle _ => 0
  | .dbRhandle _ => 0
  | .dbPeek _ => 0
  | .dbTake _ => 0
  | .dbSwappable _ => 0
  | .dbSwap _ => 0
  | .poolAlloc => 0
  | .poolFree _ => 0
  | .trNext => 0
  | .trFlush => 0
  | .trRxtmo => 0
  | .trTxbyte => 0
  | .parFetch => 0
  | .parExec => 0
  | .frmStep => 0
  | .frmPost _ => 0
  | .outPop => 0
  | .errPop => 0
  | .sysReset => 0

/-- The command word of an operation: `op`, `a1`, `a0` (R106). -/
def encode (i : Instr) : CmdWord := wordOf (opcodeOf i) (a1Of i) (a0Of i)

/-- The host's reading of a table word: the low `nbits` bits of `w` as one command word, under `CFG_REF`. -/
def decodeTableWord (nbits w : Nat) : Option Instr :=
  (decode Config.ref (BitVec.ofNat 24 (w % 2 ^ nbits))).toOption

end Sys2Proof
end

