-- ==== Sys2Proof/Machine/Ports.lean ====
section
/-! DEFINITION. The command ports and the link side (R9, R101, D2): admitting the next event, a reserved word (R108),
the reset input (R270), the events the link signals become, and the port a table word is tried on. -/

namespace Sys2Proof.Machine

/-- The arbiter admits a command: it leaves the waiting events, its port is served, its free input is at hand (R9). -/
def State.serve (s : State) (a : Agent) (n : Nat) (rest : List Event) : State :=
  { s with port := a, pick := n, pending := rest }

/-- A reserved command word does nothing except raise `F_RESERVED` (R108). -/
def rejectWord (s : State) : State := takeFault s .reserved

/-- The reset input `rst`, sampled high: the effect of `SYS.RESET`, with no port to answer on (R270).
DESIGN CHOICE, log entry 16. -/
def resetInput (s : State) (rest : List Event) : State := { s.resetRegisters with pending := rest }

/-- `rx_valid` with `rx_data = b` (D2). -/
def linkByte (b : Byte) : Event := .command .rx (encode (.trRxbyte b)) 0

/-- `rx_timeout` (D2, R252). -/
def linkTimeout : Event := .command .rx (encode .trRxtmo) 0

/-- `tx_ready` (D2). -/
def linkReady : Event := .command .tx (encode .trTxbyte) 0

/-- `tx_valid` with `tx_data` (D2), right after a `TR.TXBYTE` of `A_TX`: the byte it sent, none where it held. -/
def State.linkOut (s : State) : Option Byte :=
  if s.rsp.tx.extractLsb' 8 8 = (0x00 : Byte) then some (s.rsp.tx.extractLsb' 0 8) else none

/-- An agent that R100 lists for an operation; for a Buffer operation the Buffer's owner, if it has one (R256). -/
def usualIssuer (s : State) : Instr → Agent
  | .bufWrite h _ => (s.agentOwning h).getD .host
  | .bufPeek h => (s.agentOwning h).getD .host
  | .bufRead h => (s.agentOwning h).getD .host
  | .bufClose h => (s.agentOwning h).getD .host
  | .bufOpen h => (s.agentOwning h).getD .host
  | .bufReset h => (s.agentOwning h).getD .host
  | .bufIsclosed _ => .host
  | .bufIsempty _ => .host
  | .dbWhandle _ => .host
  | .dbRhandle _ => .host
  | .dbPut d _ => producer d
  | .dbPeek d => consumer d
  | .dbTake d => consumer d
  | .dbSwappable _ => .host
  | .dbSwap d => swapOwner d
  | .poolAlloc => .host
  | .poolFree h => (s.agentOwning h).getD .host
  | .trNext => .parser
  | .trPutb _ => .framer
  | .trFlush => .framer
  | .trRxbyte _ => .rx
  | .trRxtmo => .rx
  | .trTxbyte => .tx
  | .parFetch => .parser
  | .parExec => .parser
  | .frmStep => .framer
  | .frmPost _ => .host
  | .outPop => .host
  | .errPop => .host
  | .sysReset => .host

/-- A table word as the next command: on the port of an agent R100 lists for it, with the free input 0. DESIGN
CHOICE, log entry 2. -/
def wordEvent (s : State) (nbits w : Nat) : Event :=
  let word : CmdWord := BitVec.ofNat 24 (w % 2 ^ nbits)
  match decode s.cfg word with
  | .ok i => .command (usualIssuer s i) word 0
  | .error _ => .command .host word 0

end Sys2Proof.Machine
end

