-- ==== Sys2Proof/Machine/Step.lean ====
section
/-! DEFINITION. One step of the block: the arbiter serves the next event (R9, R101). -/

namespace Sys2Proof.Machine

/-- One whole operation (R9). With no event the block stands still: it has no clock of its own (R9, R290). -/
def step (s : State) : Host.Outcome State Fault Refusal :=
  if s.cfg.Valid then
    match s.pending with
    | [] => .next s
    | .rst :: rest => .next (resetInput s rest)
    | .command a w n :: rest =>
      match decode s.cfg w with
      | .ok i => exec i (s.serve a n rest)
      | .error _ => .next (rejectWord (s.serve a n rest))
  else .refused .badConfiguration

/-- `s` with the table word as the next event the arbiter serves. -/
def State.withFetchWord (s : State) (nbits w : Nat) : State :=
  { s with pending := wordEvent s nbits w :: s.pending }

end Sys2Proof.Machine
end

