-- ==== Sys2Proof/Machine/Pseudo.lean ====
section
/-! DEFINITION. The pseudo-operations of R111 and the host's duty of R245: abbreviations, never new operations.
Each operation they stand for is a step with a free input of its own (R161, U2). DESIGN CHOICE, log entry 6. -/

namespace Sys2Proof.Machine

/-- One operation issued by an agent, outside the event list; `n` is the free input of the step. -/
def issue (a : Agent) (n : Nat) (i : Instr) (s : State) : Host.Outcome State Fault Refusal :=
  exec i { s with port := a, pick := n }

/-- The last response on an agent's port was `HOLD` or `FAULT` (R102). -/
def haltedOn (a : Agent) (s : State) : Bool :=
  (s.rsp.get a).extractLsb' 8 8 == 0x03 || (s.rsp.get a).extractLsb' 8 8 == 0xFF

/-- An operation of an agent repeated until it returns `HOLD` or `FAULT` (R111), each time with a free input of its
own: the next of the list. R111 sets no bound and names no free input; that the list gives the inputs, and that the
repetition ends with the list at the latest, is the model's choice. DESIGN CHOICE, log entry 6. -/
def repeatOp (a : Agent) (f : Nat → State → Host.Outcome State Fault Refusal) :
    List Nat → State → Host.Outcome State Fault Refusal
  | [], s => .next s
  | n :: picks, s =>
    match f n s with
    | .next s1 => if haltedOn a s1 then .next s1 else repeatOp a f picks s1
    | .fault r => .fault r
    | .refused r => .refused r

/-- `PAR.STEP`: fetch unless the latch is valid, then exec; `HOLD` if the latch is still empty (R111). The free input
`n` says which free Buffer the exec takes where it allocates (R195, R161); the fetch does not read it. -/
def parStep (n : Nat) (s : State) : Host.Outcome State Fault Refusal :=
  match s.platch with
  | some _ => issue .parser n .parExec s
  | none =>
    match issue .parser n .parFetch s with
    | .next s1 => if s1.platch = none then .next s1 else issue .parser n .parExec s1
    | .fault r => .fault r
    | .refused r => .refused r

/-- `PAR.RUN` (R111). `picks` holds one free input for each `PAR.STEP`, so each allocation of a run can take any free
Buffer, whatever the others took (R161, U2). DESIGN CHOICE, log entry 6. -/
def parRun (picks : List Nat) (s : State) : Host.Outcome State Fault Refusal := repeatOp .parser parStep picks s

/-- `FRM.RUN` (R111), one free input for each `FRM.STEP`. DESIGN CHOICE, log entries 6 and 9. -/
def frmRun (picks : List Nat) (s : State) : Host.Outcome State Fault Refusal :=
  repeatOp .framer (fun n => issue .framer n .frmStep) picks s

/-- `TX.DRAIN` (R111); `TR.TXBYTE` reads no free input, so the list only bounds the repetition. DESIGN CHOICE, log
entry 6. -/
def txDrain (picks : List Nat) (s : State) : Host.Outcome State Fault Refusal :=
  repeatOp .tx (fun n => issue .tx n .trTxbyte) picks s

/-- `RX.FEED b0 b1 ...` as events (R111); `TR.RXBYTE` reads no free input. -/
def rxFeed (bs : List Byte) : List Event := bs.map linkByte

/-- `HOST.FILL h, b0 b1 ...` as events (R111); neither operation reads a free input, so it stands at 0. -/
def hostFill (h : Handle) (bs : List Byte) : List Event :=
  bs.map (fun b => .command .host (encode (.bufWrite h b)) 0) ++ [.command .host (encode (.bufClose h)) 0]

/-- What the host does with the Buffer `h` it allocated for an error code (R245). -/
def hostNotify (h : Handle) (code : Byte) : List Event :=
  hostFill h (Config.errFrame code) ++ [.command .host (encode (.frmPost h)) 0]

end Sys2Proof.Machine
end

