-- ==== Sys2Proof/Safety.lean ====
section
/-! DEFINITION. What counts as a good state and a good run, in the terms the statements use: no fault recorded (R44,
R257), the invariants of 10_state.md, the operations an agent issues when the block runs as designed (R256), and the
byte sequences in flight in the two directions (R70, R225). -/

namespace Sys2Proof.Machine

/-- No fault is recorded: the premise of the spec's own claims (R44, R257). -/
abbrev State.FaultFree (s : State) : Prop := s.fault = 0

/-- The Parser's accumulator where its state fixes it: the XOR of the preamble bytes matched so far (R31, R193, R199). -/
def PaccFits (c : Config) (acc : Byte) : PState → Prop
  | .seekPreamble i => acc = xorAll (c.pre.take i)
  | .readLength => acc = pXor c
  | .readPayload _ => True
  | .errorRecovery _ => True

/-- The Framer's accumulator where its state fixes it (R37, R222). -/
def FaccFits (c : Config) (acc : Byte) : FState → Prop
  | .idle => acc = 0
  | .preamble i => acc = xorAll (c.pre.take i)
  | .payload => True
  | .checksum => True

/-- A queue of pool handles holds exactly the Buffers with one owner value, each once (R29, R40, R41). -/
structure QueueFits (c : Config) (owners : List Owner) (q : List Handle) (o : Owner) : Prop where
  nodup : q.Nodup
  owned : ∀ h ∈ q, isPoolHandle c h ∧ owners[poolIndex h]? = some o
  all : ∀ h, isPoolHandle c h → owners[poolIndex h]? = some o → h ∈ q

/-- The invariants that every operation keeps, whichever agent issues it. -/
structure State.Inv (s : State) : Prop where
  /-- The configuration is one the block accepts (R7). -/
  cfgValid : s.cfg.Valid
  /-- One register set for each Buffer (R24). -/
  bufCount : s.bufs.length = 4 + s.cfg.poolSize
  /-- `get <= put <= cap` (R21). -/
  cursors : ∀ h, isLegalHandle s.cfg h → (s.buf h).get ≤ (s.buf h).put ∧ (s.buf h).put ≤ s.cap h
  /-- Every byte below `put` has been written (R25). -/
  written : ∀ h i, isLegalHandle s.cfg h → i < (s.buf h).put → (s.mem.read (addr h i)).isSome = true
  /-- The memory has its canonical form. -/
  memCanonical : s.mem.wf = true
  /-- Only addresses that exist are listed (R52, R60). -/
  memInside : ∀ c ∈ s.mem, ∃ h i, s.addrExists h i ∧ c.1 = addr h i
  /-- One owner for each pool Buffer (R28). -/
  ownerCount : s.owner.length = s.cfg.poolSize
  /-- `avail` is the number of free Buffers (R28, R205). -/
  availCounts : s.avail = s.owner.count .free
  /-- `pstate` is in its range (R30). -/
  pstateRange : s.pstate.InRange s.cfg
  /-- `pacc` in the states that fix it (R31). -/
  paccFits : PaccFits s.cfg s.pacc s.pstate
  /-- `pcur` is valid exactly in `ReadPayload` (R32). -/
  pcurValid : s.pcur.isSome = true ↔ ∃ r, s.pstate = .readPayload r
  /-- `pcur` names a pool Buffer (R32). -/
  pcurPool : ∀ h, s.pcur = some h → isPoolHandle s.cfg h
  /-- `fstate` is in its range (R36). -/
  fstateRange : s.fstate.InRange s.cfg
  /-- `facc` in the states that fix it (R37). -/
  faccFits : FaccFits s.cfg s.facc s.fstate
  /-- `fcur` is valid exactly outside `Idle` (R38). -/
  fcurValid : s.fcur.isSome = true ↔ s.fstate ≠ .idle
  /-- `fcur` names a pool Buffer (R38). -/
  fcurPool : ∀ h, s.fcur = some h → isPoolHandle s.cfg h
  /-- `Q_OUT` (R40). -/
  qOutFits : QueueFits s.cfg s.owner s.qOut .inQOut
  /-- `Q_IN` (R41). -/
  qInFits : QueueFits s.cfg s.owner s.qIn .inQIn
  /-- `ERRQ` holds at most `ERRQ_DEPTH` codes (R42), each one of R241. -/
  errqDepth : s.errq.length ≤ s.cfg.errqDepth
  errqCodes : ∀ b ∈ s.errq, IsErrorCode s.cfg b

/-- What an agent issues when the block runs as designed: the internal agents only their composite operations, the
host anything (R256). -/
def AsDesigned : Agent → Instr → Prop
  | .rx, i => i = .trRxtmo ∨ ∃ b, i = .trRxbyte b
  | .parser, i => i = .parFetch ∨ i = .parExec
  | .framer, i => i = .frmStep
  | .tx, i => i = .trTxbyte
  | .host, _ => True

/-- One pair of a block run as designed. -/
structure PairFits (s : State) (d : DbSel) : Prop where
  /-- An open read buffer is empty (R27 (b)). -/
  openReadEmpty : (s.buf (s.rh d)).closed = false → (s.buf (s.rh d)).Empty
  /-- A closed read buffer still holds a byte (R276). -/
  closedReadHolds : (s.buf (s.rh d)).closed = true → ¬ (s.buf (s.rh d)).Empty
  /-- An open write buffer is not full (R173 (c)). -/
  openWriteRoom : (s.buf (s.wh d)).closed = false → (s.buf (s.wh d)).put < s.cap (s.wh d)
  /-- A closed write buffer holds a byte (R175 (a)). -/
  closedWriteHolds : (s.buf (s.wh d)).closed = true → 0 < (s.buf (s.wh d)).put
  /-- Nothing of the write buffer has been read (R147). -/
  writeUnread : (s.buf (s.wh d)).get = 0

/-- The payload Buffer while the Parser fills it: unread, closed only by filling, and with what is to come no longer
than the longest frame allows (R195 to R197, R8). -/
structure FillFits (c : Config) (b : Buf) (r : Nat) : Prop where
  unread : b.get = 0
  closedIffFull : b.closed = true ↔ b.put = c.poolCap
  bounded : b.put + r ≤ 255 - c.k

/-- The further invariants of a block run as designed. -/
structure State.Designed (s : State) : Prop where
  ing : PairFits s .ing
  egr : PairFits s .egr
  /-- What the Parser fills (R195 to R197). -/
  fillFits : ∀ r h, s.pstate = .readPayload r → s.pcur = some h → FillFits s.cfg (s.buf h) r
  /-- A Buffer in `Q_OUT` is closed and unread (R40, R203). -/
  qOutClosed : ∀ h ∈ s.qOut, (s.buf h).closed = true ∧ (s.buf h).get = 0
  /-- A Buffer in `Q_IN` is closed (R41). -/
  qInClosed : ∀ h ∈ s.qIn, (s.buf h).closed = true
  /-- The Parser holds the Buffer it fills (R32). -/
  pcurHeld : ∀ h, s.pcur = some h → s.ownerOf h = some .heldParser
  /-- The Framer holds the Buffer it sends (R38). -/
  fcurHeld : ∀ h, s.fcur = some h → s.ownerOf h = some .heldFramer
  /-- In `Payload` the Buffer is not empty (R223). -/
  payloadHolds : s.fstate = .payload → ∀ h, s.fcur = some h → ¬ (s.buf h).Empty

/-! ### Frames and effects the statements speak of -/

/-- One register set for each Buffer and one owner for each pool Buffer (R24, R28); part of `State.Inv`. -/
abbrev State.Sized (s : State) : Prop := s.bufs.length = 4 + s.cfg.poolSize ∧ s.owner.length = s.cfg.poolSize

/-- Every storage byte outside the listed keys reads as before. -/
def StorageKept (keys : List Nat) (s t : State) : Prop := ∀ k, k ∉ keys → t.mem.read k = s.mem.read k

/-- The registers of every Buffer outside the listed ones are as before. -/
def BuffersKept (hs : List Handle) (s t : State) : Prop := ∀ h, isLegalHandle s.cfg h → h ∉ hs → t.buf h = s.buf h

/-- What an operation on the one Buffer `h` leaves: all state but the registers of `h`, the bytes at the listed keys
and the response. -/
structure BufferFrame (h : Handle) (keys : List Nat) (s t : State) : Prop where
  rest : t = { s with bufs := t.bufs, mem := t.mem, rsp := t.rsp }
  buffers : BuffersKept [h] s t
  storage : StorageKept keys s t

/-- The pair after the swap where one is possible, as it is otherwise (R173 to R176, R221). -/
def State.swappedIf (s : State) (d : DbSel) : State := if s.Swappable d then s.swapped d else s

/-- The pair with its write buffer ready for a byte: a closed one is swapped first (R173, R174). -/
def State.readyToPut (s : State) (d : DbSel) : State := if (s.buf (s.wh d)).closed = true then s.swapped d else s

/-- A byte stored at the end of the Buffer `h`, which closes when that fills it (R120). -/
def State.stored (s : State) (h : Handle) (b : Byte) : State :=
  ({ s with mem := s.mem.write (addr h (s.buf h).put) b }).setBuf h ((s.buf h).pushed (s.cap h))

/-- A byte put into a pair: a swap that was waiting, the put, a swap that became possible (R173, R174). -/
def State.passed (s : State) (d : DbSel) (b : Byte) : State :=
  ((s.readyToPut d).stored ((s.readyToPut d).wh d) b).swappedIf d

/-- The key of the byte that `State.passed` stores. -/
def State.passKey (s : State) (d : DbSel) : Nat :=
  addr ((s.readyToPut d).wh d) ((s.readyToPut d).buf ((s.readyToPut d).wh d)).put

/-- What `State.passed` leaves: the byte stands at `State.passKey`; every other byte, every Buffer outside the pair and
all other state are as before. -/
structure PassFrame (d : DbSel) (b : Byte) (s : State) : Prop where
  stored : (s.passed d b).mem.read (s.passKey d) = some b
  storage : StorageKept [s.passKey d] s (s.passed d b)
  buffers : BuffersKept [s.wh d, s.rh d] s (s.passed d b)
  selector : ∀ d', d' ≠ d → (s.passed d b).aw d' = s.aw d'
  rest : s.passed d b = { s with
    bufs := (s.passed d b).bufs, mem := (s.passed d b).mem,
    awIng := (s.passed d b).awIng, awEgr := (s.passed d b).awEgr }

/-- A pair whose trailing partial buffer is closed, and swapped where that is possible (R175, R176). -/
def State.pushedOut (s : State) (d : DbSel) : State :=
  (if (s.buf (s.wh d)).closed = false ∧ 0 < (s.buf (s.wh d)).put then
      s.setBuf (s.wh d) { s.buf (s.wh d) with closed := true }
    else s).swappedIf d

/-- An open write buffer has room, and a Buffer holds at least one byte (R173 (c), R6). -/
abbrev State.HasRoom (s : State) (d : DbSel) : Prop :=
  1 ≤ s.cap (s.wh d) ∧ 1 ≤ s.cap (s.rh d) ∧
    ((s.buf (s.wh d)).closed = false → (s.buf (s.wh d)).put < s.cap (s.wh d))

/-- Where an offending byte `b` leaves the Parser, with the accumulator (R201): `ErrorRecovery(1)` when it is `PRE[0]`,
`ReadLength` with `P_XOR` when that is the whole preamble, else `ErrorRecovery(0)`. -/
def afterError (c : Config) (b : Byte) : PState × Byte :=
  if c.pre[0]? = some b then
    if c.k = 1 then (.readLength, pXor c) else (.errorRecovery 1, 0)
  else (.errorRecovery 0, 0)

/-! ### Byte sequences -/

/-- The bytes in a pair, in the order they leave it: the read buffer's, then the write buffer's (R70). -/
def State.inFlight (s : State) (d : DbSel) : List Byte := s.content (s.rh d) ++ s.content (s.wh d)

/-- The egress byte stream: what is on the link and what is on its way there (R225). -/
def State.egressStream (s : State) : List Byte := s.tx ++ s.inFlight .egr

/-- What the Framer still has to send for the frame at hand (R220, R225). -/
def State.framerOwes (s : State) : List Byte :=
  match s.fstate, s.fcur with
  | .idle, _ => []
  | .preamble i, some h =>
    s.cfg.pre.drop i ++ s.content h ++ [s.facc ^^^ xorAll (s.cfg.pre.drop i) ^^^ xorAll (s.content h)]
  | .payload, some h => s.content h ++ [s.facc ^^^ xorAll (s.content h)]
  | .checksum, some _ => [s.facc]
  | _, none => []

/-- How an operation uses the field `a1` (R106). -/
inductive A1Use where
  | handle
  | select
  | zero
  deriving DecidableEq, Repr

/-- The rows of R106: `op`, how `a1` is used, whether `a0` is a data byte. -/
def opcodeRows : List (Byte × A1Use × Bool) :=
  [(0x01, .handle, true), (0x02, .handle, false), (0x03, .handle, false), (0x04, .handle, false),
   (0x05, .handle, false), (0x06, .handle, false), (0x07, .handle, false), (0x08, .handle, false)] ++
  [(0x10, .select, false), (0x11, .select, false), (0x12, .select, true), (0x13, .select, false),
   (0x14, .select, false), (0x15, .select, false), (0x16, .select, false)] ++
  [(0x20, .zero, false), (0x21, .handle, false)] ++
  [(0x30, .zero, false), (0x31, .zero, true), (0x32, .zero, false), (0x33, .zero, true), (0x34, .zero, false),
   (0x35, .zero, false)] ++
  [(0x40, .zero, false), (0x41, .zero, false)] ++
  [(0x50, .zero, false), (0x51, .handle, false)] ++
  [(0x60, .zero, false), (0x61, .zero, false)] ++
  [(0x70, .zero, false)]

/-- The field `a1` is as its use allows (R103, R104, R108). -/
def A1Use.Allows (c : Config) : A1Use → Byte → Prop
  | .handle, a1 => isLegalHandle c a1
  | .select, a1 => a1 = 0 ∨ a1 = 1
  | .zero, a1 => a1 = 0

/-- A command word that is not reserved: its `op` is one of R106, its `a1` is as used, an unused `a0` is zero (R108). -/
def IsCommand (c : Config) (w : CmdWord) : Prop :=
  ∃ row ∈ opcodeRows, opField w = row.1 ∧ row.2.1.Allows c (a1Field w) ∧ (row.2.2 = false → a0Field w = 0)

/-! ### Runs -/

/-- One byte put into the latch, which the statements take as empty before, and acted on: a `PAR.FETCH` that found it,
then `PAR.EXEC` (R190). `n` is the free input of that `PAR.EXEC` (log entry 6). -/
def latchAndExec (b : Byte) (n : Nat) (s : State) : Host.Outcome State Fault Refusal :=
  exec .parExec { s with platch := some b, port := .parser, pick := n }

/-- A byte sequence given to the Parser, one byte after the other, each with the free input of its step. -/
def feedParser : List (Byte × Nat) → State → Host.Outcome State Fault Refusal
  | [], s => .next s
  | (b, n) :: run, s =>
    match latchAndExec b n s with
    | .next t => feedParser run t
    | .fault f => .fault f
    | .refused r => .refused r

/-- What a run of the recovery scan may change: the Parser's state and accumulator, as given, and which command the
response belongs to; no error is reported and no Buffer allocated (R199, R200). -/
def State.scanned (s : State) (st : PState) (acc : Byte) (t : State) : Prop :=
  t = { s with pstate := st, pacc := acc, port := t.port, pick := t.pick, rsp := t.rsp }

end Sys2Proof.Machine
end

