-- ==== Sys2Proof/Certificates/Slice0/Obligations.lean ====
section
/-! DEFINITION. The statements for the provers. Each says what it formalises; a clause about a value the spec leaves
open holds for every value of it. -/

open Sys2Proof Sys2Proof.Machine

/-! ### Encoding -/

/-- Decoding the word of a well-formed operation gives the operation back, under every configuration (R101, R106). -/
def Obligations.DecodeInvertsEncode : Prop :=
  ∀ (c : Config) (i : Instr), i.WellFormed c → decode c (encode i) = .ok i

/-- A word that decodes is the word of the operation it decodes to, and that operation is well-formed. -/
def Obligations.EncodeInvertsDecode : Prop :=
  ∀ (c : Config) (w : CmdWord) (i : Instr), decode c w = .ok i → encode i = w ∧ i.WellFormed c

/-- The words that are not reserved are exactly those that decode, and a reserved word does nothing except raise
`F_RESERVED` (R108). -/
def Obligations.ReservedWordOnlyRaisesReserved : Prop :=
  (∀ (c : Config) (w : CmdWord), (∃ i, decode c w = .ok i) ↔ IsCommand c w) ∧
  ∀ (s : State) (a : Agent) (w : CmdWord) (n : Nat) (rest : List Event),
    s.cfg.Valid → s.pending = .command a w n :: rest → ¬ IsCommand s.cfg w →
      step s = .next { s with
        port := a, pick := n, pending := rest, fault := s.fault ||| 0x20, rsp := s.rsp.set a 0xFF05 }

/-- A few words of the spec's encoding decode to the operations they stand for (R106). -/
def Obligations.SampleWordsDecode : Prop :=
  decode Config.ref 0x011009 = .ok (.bufWrite 0x10 0x09) ∧
  decode Config.ref 0x160000 = .ok (.dbSwap .ing) ∧
  decode Config.ref 0x120155 = .ok (.dbPut .egr 0x55) ∧
  decode Config.ref 0x200000 = .ok .poolAlloc ∧
  decode Config.ref 0x330003 = .ok (.trRxbyte 0x03) ∧
  decode Config.ref 0x410000 = .ok .parExec ∧
  decode Config.ref 0x511000 = .ok (.frmPost 0x10) ∧
  decode Config.ref 0x610000 = .ok .errPop ∧
  decode Config.ref 0x700000 = .ok .sysReset

/-! ### One step -/

/-- A step runs the operation that a command's word decodes to, on the port the command stands on (R9, R101) and with
the step's free input (R161). That the step serves the first of the waiting events, and that the served one no longer
waits, is the model's choice (log entry 2, DESIGN CHOICE). -/
def Obligations.StepRunsDecodedInstruction : Prop :=
  ∀ (s : State) (a : Agent) (w : CmdWord) (n : Nat) (rest : List Event) (i : Instr),
    s.cfg.Valid → s.pending = .command a w n :: rest → decode s.cfg w = .ok i →
      step s = exec i { s with port := a, pick := n, pending := rest }

/-- Without a command: nothing waits and nothing happens (R9, R290); the reset input leaves what `SYS.RESET` leaves
(R270); a configuration that breaks R7 is refused. What waits is the model's own field (log entry 2). -/
def Obligations.StepWithoutCommand : Prop :=
  (∀ s : State, s.cfg.Valid → s.pending = [] → step s = .next s) ∧
  (∀ (s : State) (rest : List Event), s.cfg.Valid → s.pending = .rst :: rest →
    step s = .next { State.resetOf s.cfg with
      rsp := s.rsp, port := s.port, pick := s.pick, pending := rest, epoch := s.epoch + 1 }) ∧
  (∀ s : State, ¬ s.cfg.Valid → step s = .refused .badConfiguration)

/-- Every operation ends in exactly one outcome of R11, which the response word names, and an operation that was not
performed changes no more than R11 and R257 say: `NONE`, `FULL` and `HOLD` nothing, `FAULT(f)` the bit of `f`, and
`TR.RXBYTE` the trace of what arrived (log entry 7). -/
def Obligations.OutcomesChangeOnlyWhatTheyMay : Prop :=
  ∀ (i : Instr) (s t : State), exec i s = .next t →
    (∃ v, t.rsp = s.rsp.set s.port (rspWord 0x00 v)) ∨
    t = { s with rsp := s.rsp.set s.port 0x0100 } ∨
    t = { s with rsp := s.rsp.set s.port 0x0200 } ∨
    t = { s with rsp := s.rsp.set s.port 0x0300 } ∨
    ∃ n : Nat, n < 6 ∧ ∃ received : List Byte,
      t = { s with
        rx := received, fault := s.fault ||| BitVec.ofNat 6 (2 ^ n), rsp := s.rsp.set s.port (rspWord 0xFF (BitVec.ofNat 8 n)) } ∧
      (received = s.rx ∨ ∃ b, i = .trRxbyte b ∧ received = s.rx ++ [b])

/-- Under the invariant no step of the block stops: it always answers a next state. -/
def Obligations.NoStepStops : Prop := ∀ s : State, s.Inv → ∃ t, step s = .next t

/-! ### Buffer operations -/

/-- `BUF.WRITE h, b` (R120): appends if open and not full, closes on reaching capacity, else `FULL`. -/
def Obligations.BufWriteAppendsOrReportsFull : Prop :=
  ∀ (h : Handle) (b : Byte) (s : State), s.Sized → isLegalHandle s.cfg h →
    encode (.bufWrite h b) = wordOf 0x01 h b ∧
    (s.agentOwning h ≠ some s.port → exec (.bufWrite h b) s = .next (takeFault s .ownership)) ∧
    (s.agentOwning h = some s.port →
      ((s.buf h).closed = true ∨ s.cap h ≤ (s.buf h).put → exec (.bufWrite h b) s = .next (s.answer 0x0200)) ∧
      ((s.buf h).closed = false → (s.buf h).put < s.cap h →
        ∃ t, exec (.bufWrite h b) s = .next t ∧
          t.buf h = ⟨(s.buf h).put + 1, (s.buf h).get, decide ((s.buf h).put + 1 = s.cap h)⟩ ∧
          t.mem.read (addr h (s.buf h).put) = some b ∧
          BufferFrame h [addr h (s.buf h).put] s t ∧ t.rsp = s.rsp.set s.port 0x0000))

/-- `BUF.PEEK h` (R121): the byte at `get`, or `NONE` when empty; nothing changes. -/
def Obligations.BufPeekShowsByteAtGet : Prop :=
  ∀ (h : Handle) (s : State), isLegalHandle s.cfg h → (s.buf h).put ≤ s.cap h →
    encode (.bufPeek h) = wordOf 0x02 h 0 ∧
    (s.agentOwning h ≠ some s.port → exec (.bufPeek h) s = .next (takeFault s .ownership)) ∧
    (s.agentOwning h = some s.port →
      ((s.buf h).put ≤ (s.buf h).get → exec (.bufPeek h) s = .next (s.answer 0x0100)) ∧
      ((s.buf h).get < (s.buf h).put →
        exec (.bufPeek h) s = .next (s.answer (rspWord 0x00 (s.byteAt h (s.buf h).get)))))

/-- `BUF.READ h` (R122): the byte at `get`, which moves on; the read that drains the Buffer clears `closed`, a read of
an empty one gives `NONE` and does not. -/
def Obligations.BufReadTakesByteAtGet : Prop :=
  ∀ (h : Handle) (s : State), s.Sized → isLegalHandle s.cfg h → (s.buf h).put ≤ s.cap h →
    encode (.bufRead h) = wordOf 0x03 h 0 ∧
    (s.agentOwning h ≠ some s.port → exec (.bufRead h) s = .next (takeFault s .ownership)) ∧
    (s.agentOwning h = some s.port →
      ((s.buf h).put ≤ (s.buf h).get → exec (.bufRead h) s = .next (s.answer 0x0100)) ∧
      ((s.buf h).get < (s.buf h).put →
        ∃ t, exec (.bufRead h) s = .next t ∧
          t.buf h = ⟨(s.buf h).put, (s.buf h).get + 1,
            if (s.buf h).put ≤ (s.buf h).get + 1 then false else (s.buf h).closed⟩ ∧
          BufferFrame h [] s t ∧ t.rsp = s.rsp.set s.port (rspWord 0x00 (s.byteAt h (s.buf h).get))))

/-- `BUF.CLOSE h` (R123) sets `closed`, `BUF.OPEN h` (R124) clears it, both with `put`, `get` and storage unchanged;
`BUF.RESET h` (R125) leaves the Buffer open with both indices zero, with storage not cleared. -/
def Obligations.BufCloseOpenResetSetTheRegisters : Prop :=
  ∀ (h : Handle) (s : State), s.Sized → isLegalHandle s.cfg h →
    encode (.bufClose h) = wordOf 0x04 h 0 ∧ encode (.bufOpen h) = wordOf 0x05 h 0 ∧
    encode (.bufReset h) = wordOf 0x06 h 0 ∧
    (s.agentOwning h ≠ some s.port →
      exec (.bufClose h) s = .next (takeFault s .ownership) ∧ exec (.bufOpen h) s = .next (takeFault s .ownership) ∧
      exec (.bufReset h) s = .next (takeFault s .ownership)) ∧
    (s.agentOwning h = some s.port →
      (∃ t, exec (.bufClose h) s = .next t ∧ t.buf h = ⟨(s.buf h).put, (s.buf h).get, true⟩ ∧
        BufferFrame h [] s t ∧ t.rsp = s.rsp.set s.port 0x0000) ∧
      (∃ t, exec (.bufOpen h) s = .next t ∧ t.buf h = ⟨(s.buf h).put, (s.buf h).get, false⟩ ∧
        BufferFrame h [] s t ∧ t.rsp = s.rsp.set s.port 0x0000) ∧
      (∃ t, exec (.bufReset h) s = .next t ∧ t.buf h = ⟨0, 0, false⟩ ∧
        BufferFrame h [] s t ∧ t.rsp = s.rsp.set s.port 0x0000))

/-- `BUF.ISCLOSED h` (R126) and `BUF.ISEMPTY h` (R127) answer any agent and change nothing. -/
def Obligations.BufQueriesAnswerAnyAgent : Prop :=
  ∀ (h : Handle) (s : State), isLegalHandle s.cfg h →
    encode (.bufIsclosed h) = wordOf 0x07 h 0 ∧ encode (.bufIsempty h) = wordOf 0x08 h 0 ∧
    exec (.bufIsclosed h) s = .next (s.answer (if (s.buf h).closed = true then 0x0001 else 0x0000)) ∧
    exec (.bufIsempty h) s = .next (s.answer (if (s.buf h).put ≤ (s.buf h).get then 0x0001 else 0x0000))

/-! ### DoubleBuffer operations -/

/-- `DB.WHANDLE d` (R141), `DB.RHANDLE d` (R142) and `DB.SWAPPABLE d` (R146) answer any agent and change nothing; the
handles are those of R104. -/
def Obligations.DbQueriesAnswerAnyAgent : Prop :=
  ∀ (d : DbSel) (s : State),
    encode (.dbWhandle d) = wordOf 0x10 (selByte d) 0 ∧ encode (.dbRhandle d) = wordOf 0x11 (selByte d) 0 ∧
    encode (.dbSwappable d) = wordOf 0x15 (selByte d) 0 ∧
    (s.wh .ing = if s.awIng then 0x01 else 0x00) ∧ (s.rh .ing = if s.awIng then 0x00 else 0x01) ∧
    (s.wh .egr = if s.awEgr then 0x03 else 0x02) ∧ (s.rh .egr = if s.awEgr then 0x02 else 0x03) ∧
    exec (.dbWhandle d) s = .next (s.answer (rspWord 0x00 (s.wh d))) ∧
    exec (.dbRhandle d) s = .next (s.answer (rspWord 0x00 (s.rh d))) ∧
    exec (.dbSwappable d) s = .next (s.answer
      (if (s.buf (s.rh d)).closed = false ∧ (s.buf (s.wh d)).closed = true then 0x0001 else 0x0000))

/-- `DB.PUT d, b` (R143): the producer's `BUF.WRITE` on the write buffer; it never swaps. -/
def Obligations.DbPutWritesTheWriteBuffer : Prop :=
  ∀ (d : DbSel) (b : Byte) (s : State), s.Sized →
    encode (.dbPut d b) = wordOf 0x12 (selByte d) b ∧
    (s.port ≠ producer d → exec (.dbPut d b) s = .next (takeFault s .ownership)) ∧
    (s.port = producer d →
      exec (.dbPut d b) s = exec (.bufWrite (s.wh d) b) s ∧
      ((s.buf (s.wh d)).closed = true ∨ s.cap (s.wh d) ≤ (s.buf (s.wh d)).put →
        exec (.dbPut d b) s = .next (s.answer 0x0200)) ∧
      ((s.buf (s.wh d)).closed = false → (s.buf (s.wh d)).put < s.cap (s.wh d) →
        ∃ t, exec (.dbPut d b) s = .next t ∧
          t.buf (s.wh d) = ⟨(s.buf (s.wh d)).put + 1, (s.buf (s.wh d)).get,
            decide ((s.buf (s.wh d)).put + 1 = s.cap (s.wh d))⟩ ∧
          t.mem.read (addr (s.wh d) (s.buf (s.wh d)).put) = some b ∧
          BufferFrame (s.wh d) [addr (s.wh d) (s.buf (s.wh d)).put] s t ∧ t.rsp = s.rsp.set s.port 0x0000))

/-- `DB.PEEK d` (R144) and `DB.TAKE d` (R145): the consumer's `BUF.PEEK` and `BUF.READ` on the read buffer; neither
swaps, and a peek changes nothing. -/
def Obligations.DbPeekAndTakeReadTheReadBuffer : Prop :=
  ∀ (d : DbSel) (s : State), s.Sized → (s.buf (s.rh d)).put ≤ s.cap (s.rh d) →
    encode (.dbPeek d) = wordOf 0x13 (selByte d) 0 ∧ encode (.dbTake d) = wordOf 0x14 (selByte d) 0 ∧
    (s.port ≠ consumer d →
      exec (.dbPeek d) s = .next (takeFault s .ownership) ∧ exec (.dbTake d) s = .next (takeFault s .ownership)) ∧
    (s.port = consumer d →
      exec (.dbPeek d) s = exec (.bufPeek (s.rh d)) s ∧ exec (.dbTake d) s = exec (.bufRead (s.rh d)) s ∧
      ((s.buf (s.rh d)).put ≤ (s.buf (s.rh d)).get →
        exec (.dbPeek d) s = .next (s.answer 0x0100) ∧ exec (.dbTake d) s = .next (s.answer 0x0100)) ∧
      ((s.buf (s.rh d)).get < (s.buf (s.rh d)).put →
        exec (.dbPeek d) s = .next (s.answer (rspWord 0x00 (s.byteAt (s.rh d) (s.buf (s.rh d)).get))) ∧
        ∃ t, exec (.dbTake d) s = .next t ∧
          t.buf (s.rh d) = ⟨(s.buf (s.rh d)).put, (s.buf (s.rh d)).get + 1,
            if (s.buf (s.rh d)).put ≤ (s.buf (s.rh d)).get + 1 then false else (s.buf (s.rh d)).closed⟩ ∧
          BufferFrame (s.rh d) [] s t ∧
          t.rsp = s.rsp.set s.port (rspWord 0x00 (s.byteAt (s.rh d) (s.buf (s.rh d)).get))))

/-- `DB.SWAP d` (R147): a fault when not swappable; else the selector flips, the old read buffer is reset and is the
write buffer, the old write buffer is untouched and is the read buffer, and the pair is not swappable. -/
def Obligations.DbSwapExchangesTheBuffers : Prop :=
  ∀ (d : DbSel) (s : State), s.Sized →
    encode (.dbSwap d) = wordOf 0x16 (selByte d) 0 ∧
    (s.port ≠ swapOwner d → exec (.dbSwap d) s = .next (takeFault s .ownership)) ∧
    (s.port = swapOwner d →
      (¬ s.Swappable d → exec (.dbSwap d) s = .next (takeFault s .swap)) ∧
      (s.Swappable d →
        ∃ t, exec (.dbSwap d) s = .next t ∧
          t.aw d = !s.aw d ∧ t.wh d = s.rh d ∧ t.rh d = s.wh d ∧
          t.buf (s.rh d) = ⟨0, 0, false⟩ ∧ BuffersKept [s.rh d] s t ∧ StorageKept [] s t ∧ ¬ t.Swappable d ∧
          (∀ d', d' ≠ d → t.aw d' = s.aw d') ∧
          t = { s with bufs := t.bufs, awIng := t.awIng, awEgr := t.awEgr, rsp := s.rsp.set s.port 0x0000 }))

/-! ### BufferPool operations -/

/-- `POOL.ALLOC` (R161): holds while `avail` is 0; else some free Buffer, reset, goes to the issuer, and every free
Buffer is possible (the free input of the step). -/
def Obligations.PoolAllocHandsOutAFreeBuffer : Prop :=
  ∀ s : State, s.cfg.Valid → s.Sized → s.avail = s.owner.count .free →
    encode .poolAlloc = 0x200000 ∧
    (s.port ≠ .parser → s.port ≠ .host → exec .poolAlloc s = .next (takeFault s .ownership)) ∧
    (s.port = .parser ∨ s.port = .host →
      (s.avail = 0 → exec .poolAlloc s = .next (s.answer 0x0300)) ∧
      (0 < s.avail →
        (∃ p t, s.owner[p]? = some .free ∧ exec .poolAlloc s = .next t ∧
          t.avail = s.avail - 1 ∧
          t.owner = s.owner.set p (if s.port = .parser then .heldParser else .heldHost) ∧
          t.buf (poolHandle p) = ⟨0, 0, false⟩ ∧ BuffersKept [poolHandle p] s t ∧ StorageKept [] s t ∧
          t = { s with
            bufs := t.bufs, avail := t.avail, owner := t.owner,
            rsp := s.rsp.set s.port (rspWord 0x00 (BitVec.ofNat 8 (0x10 + p))) }) ∧
        ∀ p, s.owner[p]? = some .free →
          ∃ n t, exec .poolAlloc { s with pick := n } = .next t ∧
            t.rsp = s.rsp.set s.port (rspWord 0x00 (BitVec.ofNat 8 (0x10 + p)))))

/-- `POOL.FREE h` (R162): the handle is a pool handle, the issuer holds the Buffer, it becomes free; its cursors and
`closed` are left. -/
def Obligations.PoolFreeReturnsAHeldBuffer : Prop :=
  ∀ (h : Handle) (s : State), s.Sized →
    encode (.poolFree h) = wordOf 0x21 h 0 ∧
    (¬ isPoolHandle s.cfg h → exec (.poolFree h) s = .next (takeFault s .reserved)) ∧
    (isPoolHandle s.cfg h →
      (s.ownerOf h ≠ heldBy s.port → exec (.poolFree h) s = .next (takeFault s .ownership)) ∧
      (s.ownerOf h = heldBy s.port →
        exec (.poolFree h) s = .next
          { s with owner := s.owner.set (poolIndex h) .free, avail := s.avail + 1, rsp := s.rsp.set s.port 0x0000 }))

/-! ### Transport operations -/

/-- `TR.NEXT` (R172): holds while the ingress read buffer is empty, else takes its next byte. -/
def Obligations.TrNextTakesAnIngressByte : Prop :=
  ∀ s : State, s.Sized → (s.buf (s.rh .ing)).put ≤ s.cap (s.rh .ing) →
    encode .trNext = 0x300000 ∧
    (s.port ≠ .parser → exec .trNext s = .next (takeFault s .ownership)) ∧
    (s.port = .parser →
      ((s.buf (s.rh .ing)).put ≤ (s.buf (s.rh .ing)).get → exec .trNext s = .next (s.answer 0x0300)) ∧
      ((s.buf (s.rh .ing)).get < (s.buf (s.rh .ing)).put →
        ∃ t, exec .trNext s = .next t ∧
          t.buf (s.rh .ing) = ⟨(s.buf (s.rh .ing)).put, (s.buf (s.rh .ing)).get + 1,
            if (s.buf (s.rh .ing)).put ≤ (s.buf (s.rh .ing)).get + 1 then false else (s.buf (s.rh .ing)).closed⟩ ∧
          BufferFrame (s.rh .ing) [] s t ∧
          t.rsp = s.rsp.set s.port (rspWord 0x00 (s.byteAt (s.rh .ing) (s.buf (s.rh .ing)).get))))

/-- `TR.PUTB b` (R173): holds while the egress write buffer is closed and the pair not swappable; else a waiting swap,
the put, and a swap that the put made possible. -/
def Obligations.TrPutbPassesAByteToEgress : Prop :=
  ∀ (b : Byte) (s : State), s.Sized → s.HasRoom .egr →
    encode (.trPutb b) = wordOf 0x31 0 b ∧
    (s.port ≠ .framer → exec (.trPutb b) s = .next (takeFault s .ownership)) ∧
    (s.port = .framer →
      ((s.buf (s.wh .egr)).closed = true → ¬ s.Swappable .egr → exec (.trPutb b) s = .next (s.answer 0x0300)) ∧
      ((s.buf (s.wh .egr)).closed = false ∨ s.Swappable .egr →
        exec (.trPutb b) s = .next ((s.passed .egr b).answer 0x0000) ∧
        PassFrame .egr b s))

/-- `TR.RXBYTE b` (R174): never holds; with the ingress write buffer closed and no swap possible the byte is dropped
and `F_RX_OVERRUN` set; else a waiting swap, the put, and a swap that the put made possible. -/
def Obligations.TrRxbyteTakesALinkByte : Prop :=
  ∀ (b : Byte) (s : State), s.Sized → s.HasRoom .ing →
    encode (.trRxbyte b) = wordOf 0x33 0 b ∧
    (s.port ≠ .rx → exec (.trRxbyte b) s = .next (takeFault s .ownership)) ∧
    (s.port = .rx →
      ((s.buf (s.wh .ing)).closed = true → ¬ s.Swappable .ing →
        exec (.trRxbyte b) s = .next (takeFault { s with rx := s.rx ++ [b] } .rxOverrun)) ∧
      ((s.buf (s.wh .ing)).closed = false ∨ s.Swappable .ing →
        exec (.trRxbyte b) s = .next (({ s.passed .ing b with rx := s.rx ++ [b] }).answer 0x0000) ∧
        PassFrame .ing b s))

/-- `TR.RXTMO` (R175) and its mirror image `TR.FLUSH` (R176), which the Framer or the host issues: never a hold, never a
fault of its own; an open write buffer that holds a byte is closed, then the pair is swapped if swappable. -/
def Obligations.TrRxtmoAndFlushCloseAPartialBuffer : Prop :=
  ∀ (d : DbSel) (s t : State), s.Sized → t = s.pushedOut d →
    encode .trRxtmo = 0x340000 ∧ encode .trFlush = 0x320000 ∧
    (s.port ≠ .rx → exec .trRxtmo s = .next (takeFault s .ownership)) ∧
    (s.port ≠ .framer → s.port ≠ .host → exec .trFlush s = .next (takeFault s .ownership)) ∧
    (s.port = .rx → d = .ing → exec .trRxtmo s = .next (t.answer 0x0000)) ∧
    (s.port = .framer ∨ s.port = .host → d = .egr → exec .trFlush s = .next (t.answer 0x0000)) ∧
    ((s.buf (s.wh d)).closed = false → 0 < (s.buf (s.wh d)).put →
      t.buf (s.wh d) = ⟨(s.buf (s.wh d)).put, (s.buf (s.wh d)).get, true⟩) ∧
    ((s.buf (s.wh d)).closed = true ∨ (s.buf (s.wh d)).put = 0 → t.buf (s.wh d) = s.buf (s.wh d)) ∧
    ((s.buf (s.rh d)).closed = false →
      ((s.buf (s.wh d)).closed = true ∨ 0 < (s.buf (s.wh d)).put) →
        t.aw d = !s.aw d ∧ t.buf (s.rh d) = ⟨0, 0, false⟩) ∧
    ((s.buf (s.rh d)).closed = true ∨ (s.buf (s.wh d)).closed = false ∧ (s.buf (s.wh d)).put = 0 →
      t.aw d = s.aw d ∧ t.buf (s.rh d) = s.buf (s.rh d)) ∧
    (∀ d', d' ≠ d → t.aw d' = s.aw d') ∧ StorageKept [] s t ∧ BuffersKept [s.wh d, s.rh d] s t ∧
    t = { s with bufs := t.bufs, awIng := t.awIng, awEgr := t.awEgr }

/-- `TR.TXBYTE` (R177): holds while the egress read buffer is empty, else takes its next byte and appends it to `TX`. -/
def Obligations.TrTxbyteSendsAnEgressByte : Prop :=
  ∀ s : State, s.Sized → (s.buf (s.rh .egr)).put ≤ s.cap (s.rh .egr) →
    encode .trTxbyte = 0x350000 ∧
    (s.port ≠ .tx → exec .trTxbyte s = .next (takeFault s .ownership)) ∧
    (s.port = .tx →
      ((s.buf (s.rh .egr)).put ≤ (s.buf (s.rh .egr)).get → exec .trTxbyte s = .next (s.answer 0x0300)) ∧
      ((s.buf (s.rh .egr)).get < (s.buf (s.rh .egr)).put →
        ∃ t, exec .trTxbyte s = .next t ∧
          t.buf (s.rh .egr) = ⟨(s.buf (s.rh .egr)).put, (s.buf (s.rh .egr)).get + 1,
            if (s.buf (s.rh .egr)).put ≤ (s.buf (s.rh .egr)).get + 1 then false else (s.buf (s.rh .egr)).closed⟩ ∧
          t.tx = s.tx ++ [s.byteAt (s.rh .egr) (s.buf (s.rh .egr)).get] ∧
          BuffersKept [s.rh .egr] s t ∧ StorageKept [] s t ∧
          t = { s with
            bufs := t.bufs, tx := t.tx,
            rsp := s.rsp.set s.port (rspWord 0x00 (s.byteAt (s.rh .egr) (s.buf (s.rh .egr)).get)) }))

/-! ### The Parser -/

/-- `PAR.FETCH` (R191): holds while a byte is latched or the ingress read buffer is empty, else latches its next byte. -/
def Obligations.ParFetchLatchesAByte : Prop :=
  ∀ s : State, s.Sized → (s.buf (s.rh .ing)).put ≤ s.cap (s.rh .ing) →
    encode .parFetch = 0x400000 ∧
    (s.port ≠ .parser → exec .parFetch s = .next (takeFault s .ownership)) ∧
    (s.port = .parser →
      (s.platch ≠ none → exec .parFetch s = .next (s.answer 0x0300)) ∧
      (s.platch = none → (s.buf (s.rh .ing)).put ≤ (s.buf (s.rh .ing)).get →
        exec .parFetch s = .next (s.answer 0x0300)) ∧
      (s.platch = none → (s.buf (s.rh .ing)).get < (s.buf (s.rh .ing)).put →
        ∃ t, exec .parFetch s = .next t ∧
          t.buf (s.rh .ing) = ⟨(s.buf (s.rh .ing)).put, (s.buf (s.rh .ing)).get + 1,
            if (s.buf (s.rh .ing)).put ≤ (s.buf (s.rh .ing)).get + 1 then false else (s.buf (s.rh .ing)).closed⟩ ∧
          BuffersKept [s.rh .ing] s t ∧ StorageKept [] s t ∧
          t = { s with
            bufs := t.bufs, platch := some (s.byteAt (s.rh .ing) (s.buf (s.rh .ing)).get),
            rsp := s.rsp.set s.port 0x0000 }))

/-- `PAR.EXEC` (R192) holds without a latched byte; where its arm is performed the latch is emptied, where the arm holds
or faults the latch stays and nothing but the response and the fault bit changes. -/
def Obligations.ParExecActsOnTheLatchedByte : Prop :=
  ∀ s : State,
    encode .parExec = 0x410000 ∧
    (s.port ≠ .parser → exec .parExec s = .next (takeFault s .ownership)) ∧
    (s.port = .parser → s.platch = none → exec .parExec s = .next (s.answer 0x0300)) ∧
    ∀ t, exec .parExec s = .next t →
      (t.platch = none ∧ t.rsp = s.rsp.set s.port 0x0000) ∨ t = s.answer 0x0300 ∨ ∃ f, t = takeFault s f

/-- Arm `SeekPreamble(i)` (R193): the expected byte advances the match; any other is reported as
`PreambleMismatch(i)`, code 0x40 + i, and the Parser enters recovery; while `ERRQ` is full that arm holds. -/
def Obligations.ParserSeeksThePreamble : Prop :=
  ∀ (i : Nat) (b p : Byte) (s : State),
    s.port = .parser → s.platch = some b → s.pstate = .seekPreamble i → s.cfg.pre[i]? = some p →
      (b = p → exec .parExec s = .next { s with
        pacc := s.pacc ^^^ b, pstate := if i + 1 = s.cfg.k then .readLength else .seekPreamble (i + 1),
        platch := none, rsp := s.rsp.set s.port 0x0000 }) ∧
      (b ≠ p → s.cfg.errqDepth ≤ s.errq.length → exec .parExec s = .next (s.answer 0x0300)) ∧
      (b ≠ p → s.errq.length < s.cfg.errqDepth → exec .parExec s = .next { s with
        errq := s.errq ++ [0x40 + BitVec.ofNat 8 i], pacc := (afterError s.cfg b).2, pstate := (afterError s.cfg b).1,
        platch := none, rsp := s.rsp.set s.port 0x0000 })

/-- Arm `ReadLength`, byte below the minimum (R194): `FrameTooShort`, code 0x80, then recovery; no Buffer is
allocated; while `ERRQ` is full the arm holds. -/
def Obligations.ParserRejectsAShortLength : Prop :=
  ∀ (b : Byte) (s : State),
    1 ≤ s.cfg.k → s.port = .parser → s.platch = some b → s.pstate = .readLength → b.toNat < s.cfg.minFrameLen →
      (s.cfg.errqDepth ≤ s.errq.length → exec .parExec s = .next (s.answer 0x0300)) ∧
      (s.errq.length < s.cfg.errqDepth → exec .parExec s = .next { s with
        errq := s.errq ++ [0x80], pacc := (afterError s.cfg b).2, pstate := (afterError s.cfg b).1,
        platch := none, rsp := s.rsp.set s.port 0x0000 })

/-- Arm `ReadLength`, legal byte (R195): holds while the pool is empty; else a free Buffer is allocated, its index 0
holds the length byte, and `L - K - 1` bytes are to come. -/
def Obligations.ParserAllocatesForALegalLength : Prop :=
  ∀ (b : Byte) (s : State),
    s.cfg.Valid → s.Sized → s.avail = s.owner.count .free →
    s.port = .parser → s.platch = some b → s.pstate = .readLength → s.cfg.minFrameLen ≤ b.toNat →
      (s.avail = 0 → exec .parExec s = .next (s.answer 0x0300)) ∧
      (0 < s.avail →
        ∃ p t, s.owner[p]? = some .free ∧ exec .parExec s = .next t ∧
          t.buf (poolHandle p) = ⟨1, 0, decide (s.cfg.poolCap = 1)⟩ ∧
          t.mem.read (addr (poolHandle p) 0) = some b ∧
          BuffersKept [poolHandle p] s t ∧ StorageKept [addr (poolHandle p) 0] s t ∧
          t = { s with
            bufs := t.bufs, mem := t.mem, avail := s.avail - 1, owner := s.owner.set p .heldParser,
            pacc := s.pacc ^^^ b, pcur := some (poolHandle p), pstate := .readPayload (b.toNat - s.cfg.k - 1),
            platch := none, rsp := s.rsp.set s.port 0x0000 })

/-- Arm `ReadPayload(r)` (R196): with `r > 1` the byte is stored and counted; with `r = 1` and a byte that makes the
accumulator zero the Buffer is closed and queued, and the byte is not stored. -/
def Obligations.ParserReadsThePayload : Prop :=
  ∀ (r : Nat) (b : Byte) (h : Handle) (s : State),
    s.Sized → isPoolHandle s.cfg h → s.ownerOf h = some .heldParser →
    s.port = .parser → s.platch = some b → s.pstate = .readPayload r → s.pcur = some h →
      (1 < r → (s.buf h).closed = false → (s.buf h).put < s.cap h →
        ∃ t, exec .parExec s = .next t ∧
          t.buf h = ⟨(s.buf h).put + 1, (s.buf h).get, decide ((s.buf h).put + 1 = s.cap h)⟩ ∧
          t.mem.read (addr h (s.buf h).put) = some b ∧
          BuffersKept [h] s t ∧ StorageKept [addr h (s.buf h).put] s t ∧
          t = { s with
            bufs := t.bufs, mem := t.mem, pacc := s.pacc ^^^ b, pstate := .readPayload (r - 1),
            platch := none, rsp := s.rsp.set s.port 0x0000 }) ∧
      (r = 1 → s.pacc ^^^ b = 0 →
        ∃ t, exec .parExec s = .next t ∧
          t.buf h = { s.buf h with closed := true } ∧ BuffersKept [h] s t ∧ StorageKept [] s t ∧
          t = { s with
            bufs := t.bufs, owner := s.owner.set (poolIndex h) .inQOut, qOut := s.qOut ++ [h],
            pacc := 0, pcur := none, pstate := .seekPreamble 0, platch := none, rsp := s.rsp.set s.port 0x0000 })

/-- A byte that the payload Buffer refuses (R197): `F_PAYLOAD_OVERFLOW`, the arm is abandoned, everything else stays. -/
def Obligations.ParserFaultsOnPayloadOverflow : Prop :=
  ∀ (r : Nat) (b : Byte) (h : Handle) (s : State),
    isPoolHandle s.cfg h → s.ownerOf h = some .heldParser →
    s.port = .parser → s.platch = some b → s.pstate = .readPayload r → s.pcur = some h →
    1 < r → (s.buf h).closed = true ∨ s.cap h ≤ (s.buf h).put →
      exec .parExec s = .next (takeFault s .payloadOverflow)

/-- Arm `ReadPayload(1)`, bad checksum byte (R198): `ChecksumMismatch`, code 0xC0, the Buffer is freed, nothing is
queued, then recovery; while `ERRQ` is full the arm holds. -/
def Obligations.ParserRejectsABadChecksum : Prop :=
  ∀ (b : Byte) (h : Handle) (s : State),
    1 ≤ s.cfg.k → isPoolHandle s.cfg h → s.ownerOf h = some .heldParser →
    s.port = .parser → s.platch = some b → s.pstate = .readPayload 1 → s.pcur = some h → s.pacc ^^^ b ≠ 0 →
      (s.cfg.errqDepth ≤ s.errq.length → exec .parExec s = .next (s.answer 0x0300)) ∧
      (s.errq.length < s.cfg.errqDepth → exec .parExec s = .next { s with
        errq := s.errq ++ [0xC0], owner := s.owner.set (poolIndex h) .free, avail := s.avail + 1, pcur := none,
        pacc := (afterError s.cfg b).2, pstate := (afterError s.cfg b).1,
        platch := none, rsp := s.rsp.set s.port 0x0000 })

/-- Arm `ErrorRecovery(i)` (R199, R200): `j` preamble bytes are matched after the byte; a full preamble leads to
`ReadLength` with `P_XOR`, anything less to `ErrorRecovery(j)`; nothing is reported. -/
def Obligations.ParserScansInRecovery : Prop :=
  ∀ (i j : Nat) (b : Byte) (s : State),
    s.port = .parser → s.platch = some b → s.pstate = .errorRecovery i → i < s.cfg.k →
    j = (if s.cfg.pre[i]? = some b then i + 1 else if 0 < i ∧ s.cfg.pre[0]? = some b then 1 else 0) →
      exec .parExec s = .next { s with
        pacc := if j = s.cfg.k then pXor s.cfg else s.pacc ^^^ b,
        pstate := if j = s.cfg.k then .readLength else .errorRecovery j,
        platch := none, rsp := s.rsp.set s.port 0x0000 }

/-- From `ErrorRecovery(i)`, with `i` preamble bytes matched so far, the Parser reaches `ReadLength` exactly when the
preamble ends in the bytes fed (R199 (a), R200, R7 (b)): while those, after the `i` matched ones, hold no full preamble,
it is in `ErrorRecovery`; with the byte that completes the first one it is in `ReadLength` with `P_XOR`. No byte holds,
reports or allocates. -/
def Obligations.RecoveryScanFindsEveryPreamble : Prop :=
  ∀ (i : Nat) (run : List (Byte × Nat)) (seen : List Byte) (s : State),
    s.cfg.Valid → s.platch = none → s.pstate = .errorRecovery i → i < s.cfg.k →
    seen = s.cfg.pre.take i ++ run.map Prod.fst →
      (¬ s.cfg.pre <:+: seen →
        ∃ t j acc, feedParser run s = .next t ∧ j < s.cfg.k ∧ s.scanned (.errorRecovery j) acc t) ∧
      (s.cfg.pre <:+ seen → ¬ s.cfg.pre <:+: seen.dropLast →
        ∃ t, feedParser run s = .next t ∧ s.scanned .readLength (pXor s.cfg) t)

/-- Acceptance (R205 (a)): started in `SeekPreamble(0)` with the pool not empty and fed exactly a well-formed frame that
fits the pool Buffer, the Parser raises no error, queues one Buffer with the frame's stored bytes, and is back in
`SeekPreamble(0)` with the accumulator zero, whichever free Buffer it takes. -/
def Obligations.ParserAcceptsAWellFormedFrame : Prop :=
  ∀ (f : List Byte) (run : List (Byte × Nat)) (s : State),
    s.Inv → s.platch = none → s.pstate = .seekPreamble 0 → 0 < s.avail →
    WellFormedFrame s.cfg f → f.length - s.cfg.k - 1 ≤ s.cfg.poolCap → run.map Prod.fst = f →
      ∃ t h, feedParser run s = .next t ∧ t.errq = s.errq ∧ t.fault = s.fault ∧
        t.qOut = s.qOut ++ [h] ∧ t.content h = storedBytes s.cfg f ∧ (t.buf h).closed = true ∧
        t.pstate = .seekPreamble 0 ∧ t.pacc = 0 ∧ t.avail = s.avail - 1

/-- Corruption (R205 (b)): the same frame with another last byte gives exactly one `ChecksumMismatch` and no push, the
Buffer goes back to the pool, and the Parser is where R201 leaves it. -/
def Obligations.ParserRejectsACorruptedFrame : Prop :=
  ∀ (f : List Byte) (x : Byte) (run : List (Byte × Nat)) (s : State),
    s.Inv → s.platch = none → s.pstate = .seekPreamble 0 → 0 < s.avail → s.errq.length < s.cfg.errqDepth →
    WellFormedFrame s.cfg f → f.length - s.cfg.k - 1 ≤ s.cfg.poolCap → f.getLast? ≠ some x →
    run.map Prod.fst = f.dropLast ++ [x] →
      ∃ t, feedParser run s = .next t ∧ t.errq = s.errq ++ [0xC0] ∧ t.fault = s.fault ∧
        t.qOut = s.qOut ∧ t.avail = s.avail ∧
        t.pstate = (afterError s.cfg x).1 ∧ t.pacc = (afterError s.cfg x).2

/-- Resync (R205 (c)): a frame, at least one garbage byte, a second frame, where the garbage followed by the first
`K - 1` bytes of the second frame holds no full preamble: one `PreambleMismatch`, at position 0 unless the garbage
begins with a prefix of the preamble, and two pushes in order, whichever free Buffers it takes. -/
def Obligations.ParserResynchronises : Prop :=
  ∀ (f g f' : List Byte) (run : List (Byte × Nat)) (s : State),
    s.Inv → s.platch = none → s.pstate = .seekPreamble 0 → 1 < s.avail → s.errq.length < s.cfg.errqDepth →
    WellFormedFrame s.cfg f → f.length - s.cfg.k - 1 ≤ s.cfg.poolCap →
    WellFormedFrame s.cfg f' → f'.length - s.cfg.k - 1 ≤ s.cfg.poolCap →
    g ≠ [] → ¬ s.cfg.pre <:+: g ++ s.cfg.pre.dropLast → run.map Prod.fst = f ++ g ++ f' →
      ∃ t h h' i, feedParser run s = .next t ∧
        i < s.cfg.k ∧ (g.head? ≠ s.cfg.pre.head? → i = 0) ∧ t.errq = s.errq ++ [0x40 + BitVec.ofNat 8 i] ∧
        t.fault = s.fault ∧ t.qOut = s.qOut ++ [h, h'] ∧
        t.content h = storedBytes s.cfg f ∧ t.content h' = storedBytes s.cfg f' ∧
        t.pstate = .seekPreamble 0 ∧ t.pacc = 0

/-- The pseudocode of `OUT.POP` (R203) and of `ERR.POP` (R204): the host takes the oldest handle, with the Buffer, or
the oldest code; each holds while its queue is empty. Of what the popped Buffer holds nothing is said here. -/
def Obligations.HostPopsTheOldest : Prop :=
  ∀ s : State,
    encode .outPop = 0x600000 ∧ encode .errPop = 0x610000 ∧
    (s.port ≠ .host →
      exec .outPop s = .next (takeFault s .ownership) ∧ exec .errPop s = .next (takeFault s .ownership)) ∧
    (s.port = .host →
      (s.qOut = [] → exec .outPop s = .next (s.answer 0x0300)) ∧
      (∀ h rest, s.qOut = h :: rest → exec .outPop s = .next { s with
        qOut := rest, owner := s.owner.set (poolIndex h) .heldHost, rsp := s.rsp.set s.port (rspWord 0x00 h) }) ∧
      (s.errq = [] → exec .errPop s = .next (s.answer 0x0300)) ∧
      ∀ e rest, s.errq = e :: rest → exec .errPop s = .next { s with
        errq := rest, rsp := s.rsp.set s.port (rspWord 0x00 e) })

/-! ### The Framer -/

/-- `FRM.STEP` in `Idle` (R221): a pending egress swap is done, and a queued Buffer begins a frame; with neither it
holds. No byte is sent. -/
def Obligations.FramerIdleSwapsAndPops : Prop :=
  ∀ s : State,
    encode .frmStep = 0x500000 ∧
    (s.port ≠ .framer → exec .frmStep s = .next (takeFault s .ownership)) ∧
    (s.port = .framer → s.fstate = .idle →
      (s.qIn = [] → ¬ s.Swappable .egr → exec .frmStep s = .next (s.answer 0x0300)) ∧
      (s.qIn = [] → s.Swappable .egr → exec .frmStep s = .next ((s.swapped .egr).answer 0x0000)) ∧
      ∀ h rest, s.qIn = h :: rest → exec .frmStep s = .next { s.swappedIf .egr with
        qIn := rest, owner := s.owner.set (poolIndex h) .heldFramer, fcur := some h, facc := 0, fstate := .preamble 0,
        rsp := s.rsp.set s.port 0x0000 })

/-- Arm `Preamble(i)` (R222): holds while no byte can be sent; else `PRE[i]` goes to the egress pair and is counted. -/
def Obligations.FramerSendsThePreamble : Prop :=
  ∀ (i : Nat) (p : Byte) (h : Handle) (s : State),
    s.Sized → s.HasRoom .egr → isPoolHandle s.cfg h →
    s.port = .framer → s.fstate = .preamble i → s.fcur = some h → s.cfg.pre[i]? = some p →
      (¬ s.CanSend → exec .frmStep s = .next (s.answer 0x0300)) ∧
      (s.CanSend →
        exec .frmStep s = .next { s.passed .egr p with
          facc := s.facc ^^^ p,
          fstate := if i + 1 < s.cfg.k then .preamble (i + 1)
            else if (s.buf h).put ≤ (s.buf h).get then .checksum else .payload,
          rsp := s.rsp.set s.port 0x0000 } ∧
        PassFrame .egr p s)

/-- Arm `Payload` (R223): holds while no byte can be sent, with the Buffer unread; else its next byte is read, sent and
counted, and the byte that drains it leads to `Checksum`. -/
def Obligations.FramerSendsThePayload : Prop :=
  ∀ (h : Handle) (s s' : State),
    s.Sized → s.HasRoom .egr → isPoolHandle s.cfg h → s.ownerOf h = some .heldFramer →
    s.port = .framer → s.fstate = .payload → s.fcur = some h →
    (s.buf h).get < (s.buf h).put → (s.buf h).put ≤ s.cap h →
    s' = s.setBuf h ⟨(s.buf h).put, (s.buf h).get + 1,
      if (s.buf h).put ≤ (s.buf h).get + 1 then false else (s.buf h).closed⟩ →
      (¬ s.CanSend → exec .frmStep s = .next (s.answer 0x0300)) ∧
      (s.CanSend →
        exec .frmStep s = .next { s'.passed .egr (s.byteAt h (s.buf h).get) with
          facc := s.facc ^^^ s.byteAt h (s.buf h).get,
          fstate := if (s.buf h).put ≤ (s.buf h).get + 1 then .checksum else .payload,
          rsp := s.rsp.set s.port 0x0000 } ∧
        PassFrame .egr (s.byteAt h (s.buf h).get) s')

/-- Arm `Checksum` (R224): holds while no byte can be sent; else the accumulator is sent, the Buffer is freed, the pair
is flushed and the Framer is idle. -/
def Obligations.FramerSendsTheChecksum : Prop :=
  ∀ (h : Handle) (s : State),
    s.Sized → s.HasRoom .egr → isPoolHandle s.cfg h → s.ownerOf h = some .heldFramer →
    s.port = .framer → s.fstate = .checksum → s.fcur = some h →
      (¬ s.CanSend → exec .frmStep s = .next (s.answer 0x0300)) ∧
      (s.CanSend →
        exec .frmStep s = .next { (s.passed .egr s.facc).pushedOut .egr with
          facc := 0, owner := s.owner.set (poolIndex h) .free, avail := s.avail + 1, fcur := none, fstate := .idle,
          rsp := s.rsp.set s.port 0x0000 } ∧
        PassFrame .egr s.facc s ∧
        StorageKept [] (s.passed .egr s.facc) ((s.passed .egr s.facc).pushedOut .egr) ∧
        BuffersKept [s.wh .egr, s.rh .egr] s ((s.passed .egr s.facc).pushedOut .egr))

/-- What reaches the link (R225): a turn of the Framer moves bytes from what it owes to the end of the egress stream and
changes neither otherwise; the pop of a Buffer makes it owe the preamble, the Buffer's unread bytes and their XOR. -/
def Obligations.FramerEmitsWhatItOwes : Prop :=
  ∀ s t : State, s.Inv → s.Designed → s.port = .framer → exec .frmStep s = .next t →
    (s.fstate ≠ .idle → t.egressStream ++ t.framerOwes = s.egressStream ++ s.framerOwes) ∧
    (s.fstate = .idle → t.egressStream = s.egressStream ∧
      ∀ h rest, s.qIn = h :: rest → t.framerOwes = emittedFrame s.cfg (s.content h))

/-- The frame the Framer emits has XOR zero (R225), and it is a well-formed frame whose stored bytes are the Buffer's
content when that begins with its length byte and is long enough (R227, R96). -/
def Obligations.EmittedFrameIsWellFormed : Prop :=
  ∀ (c : Config) (x : List Byte),
    xorAll (emittedFrame c x) = 0 ∧
    (c.Valid → c.minFrameLen ≤ c.k + 1 + x.length → c.k + 1 + x.length ≤ 255 →
      x[0]? = some (BitVec.ofNat 8 (c.k + 1 + x.length)) →
        WellFormedFrame c (emittedFrame c x) ∧ storedBytes c (emittedFrame c x) = x)

/-- `FRM.POST h` (R226): the checks in their order, then the Buffer is queued for the Framer. -/
def Obligations.FrmPostQueuesAClosedBuffer : Prop :=
  ∀ (h : Handle) (s : State),
    encode (.frmPost h) = wordOf 0x51 h 0 ∧
    (¬ isPoolHandle s.cfg h → exec (.frmPost h) s = .next (takeFault s .reserved)) ∧
    (isPoolHandle s.cfg h →
      (s.port ≠ .host ∨ s.ownerOf h ≠ some .heldHost → exec (.frmPost h) s = .next (takeFault s .ownership)) ∧
      (s.port = .host → s.ownerOf h = some .heldHost →
        ((s.buf h).closed = false → exec (.frmPost h) s = .next (takeFault s .postOpen)) ∧
        ((s.buf h).closed = true → exec (.frmPost h) s = .next { s with
          qIn := s.qIn ++ [h], owner := s.owner.set (poolIndex h) .inQIn, rsp := s.rsp.set s.port 0x0000 })))

/-! ### Reset, faults, ownership -/

/-- Every register after reset, under every configuration (R50); of the storage bytes nothing is said. -/
def Obligations.ResetValues : Prop :=
  ∀ (c : Config) (s : State), s = State.resetOf c ∨ c = Config.ref ∧ s = State.reset →
    s.cfg = c ∧ (∀ h, isLegalHandle c h → s.buf h = ⟨0, 0, false⟩) ∧
    s.awIng = false ∧ s.awEgr = false ∧ s.avail = c.poolSize ∧
    (∀ p, p < c.poolSize → s.owner[p]? = some .free) ∧
    s.pstate = .seekPreamble 0 ∧ s.pstate.bits = 0x000 ∧ s.pacc = 0 ∧ s.pcur = none ∧ s.platch = none ∧
    s.fstate = .idle ∧ s.fstate.bits = 0x000 ∧ s.facc = 0 ∧ s.fcur = none ∧
    s.qOut = [] ∧ s.qIn = [] ∧ s.errq = [] ∧ s.fault = 0 ∧ s.rx = [] ∧ s.tx = []

/-- `SYS.RESET` (R270) by the host, in any state, also with a fault recorded: every register at its reset value. The
response ports and the model's own fields are no registers (log entries 1, 3 and 4). -/
def Obligations.SysResetRestoresTheResetValues : Prop :=
  ∀ s : State,
    encode .sysReset = 0x700000 ∧
    (s.port ≠ .host → exec .sysReset s = .next (takeFault s .ownership)) ∧
    (s.port = .host → exec .sysReset s = .next { State.resetOf s.cfg with
      rsp := s.rsp.set s.port 0x0000, port := s.port, pick := s.pick, pending := s.pending, epoch := s.epoch + 1 })

/-- Taking a fault sets its bit of `FAULT`, answers with the bit's number and changes nothing else (R44, R102, R257). -/
def Obligations.TakingAFaultSetsItsBit : Prop :=
  ∀ s : State,
    takeFault s .swap = { s with fault := s.fault ||| 0b000001, rsp := s.rsp.set s.port 0xFF00 } ∧
    takeFault s .rxOverrun = { s with fault := s.fault ||| 0b000010, rsp := s.rsp.set s.port 0xFF01 } ∧
    takeFault s .payloadOverflow = { s with fault := s.fault ||| 0b000100, rsp := s.rsp.set s.port 0xFF02 } ∧
    takeFault s .ownership = { s with fault := s.fault ||| 0b001000, rsp := s.rsp.set s.port 0xFF03 } ∧
    takeFault s .postOpen = { s with fault := s.fault ||| 0b010000, rsp := s.rsp.set s.port 0xFF04 } ∧
    takeFault s .reserved = { s with fault := s.fault ||| 0b100000, rsp := s.rsp.set s.port 0xFF05 }

/-- A bit of `FAULT` is cleared only by reset (R44): whatever step the block makes, other than the reset input and a
`SYS.RESET` on the host's port, a bit that was set is still set. A `SYS.RESET` on another port, which is turned away,
clears none. -/
def Obligations.FaultIsStickyUntilReset : Prop :=
  ∀ s t : State, step s = .next t →
    (∀ rest, s.pending ≠ .rst :: rest) →
    (∀ w n rest, s.pending = .command .host w n :: rest → decode s.cfg w ≠ .ok .sysReset) →
      s.fault &&& t.fault = s.fault

/-- Who owns a Buffer (R256): the table, for the four slots and for a pool Buffer by its owner value; the host owns no
slot. -/
def Obligations.OwnershipFollowsTheTable : Prop :=
  ∀ s : State,
    s.agentOwning (s.wh .ing) = some .rx ∧ s.agentOwning (s.rh .ing) = some .parser ∧
    s.agentOwning (s.wh .egr) = some .framer ∧ s.agentOwning (s.rh .egr) = some .tx ∧
    (∀ h : Handle, h.toNat < 4 → s.agentOwning h ≠ some .host) ∧
    ∀ h o, isPoolHandle s.cfg h → s.ownerOf h = some o →
      s.agentOwning h = match o with
        | .free => none
        | .heldParser => some .parser
        | .inQOut => none
        | .heldHost => some .host
        | .inQIn => none
        | .heldFramer => some .framer

/-- Each register has one writer (R258): no operation of another agent changes it, but for the host's `SYS.RESET`, the
host's `TR.FLUSH` on `db[EGR].aw` (R171), and `avail` and `owner[]`, which several agents write. Two clauses are none of
R258: the traces, where a `TR.RXBYTE` on another port leaves `RX` (log entry 7, DEDUCED), and the other agents' response
ports (log entry 4, DESIGN CHOICE). -/
def Obligations.RegistersBelongToTheirAgents : Prop :=
  ∀ (i : Instr) (s t : State), exec i s = .next t → (i = .sysReset → s.port ≠ .host) →
    (s.port ≠ .parser → t.pstate = s.pstate ∧ t.pacc = s.pacc ∧ t.pcur = s.pcur ∧ t.platch = s.platch) ∧
    (s.port ≠ .framer → t.fstate = s.fstate ∧ t.facc = s.facc ∧ t.fcur = s.fcur) ∧
    (s.port ≠ .rx → t.awIng = s.awIng ∧ t.rx = s.rx) ∧
    (s.port ≠ .framer → (i = .trFlush → s.port ≠ .host) → t.awEgr = s.awEgr) ∧
    (s.port ≠ .tx → t.tx = s.tx) ∧
    (∀ a, a ≠ s.port → t.rsp.get a = s.rsp.get a)

/-- Which operations write the sequencers, the latch, the queues and the traces at all (R30 to R43); the parameters are
written by none (R6). -/
def Obligations.OnlyTheirOperationsWriteThem : Prop :=
  ∀ (i : Instr) (s t : State), exec i s = .next t → t.cfg = s.cfg ∧
    (i ≠ .sysReset →
      (i ≠ .parExec → t.pstate = s.pstate ∧ t.pacc = s.pacc ∧ t.pcur = s.pcur) ∧
      (i ≠ .parExec → i ≠ .parFetch → t.platch = s.platch) ∧
      (i ≠ .frmStep → t.fstate = s.fstate ∧ t.facc = s.facc ∧ t.fcur = s.fcur) ∧
      (i ≠ .parExec → i ≠ .outPop → t.qOut = s.qOut) ∧
      (i ≠ .frmStep → (∀ h, i ≠ .frmPost h) → t.qIn = s.qIn) ∧
      (i ≠ .parExec → i ≠ .errPop → t.errq = s.errq) ∧
      ((∀ b, i ≠ .trRxbyte b) → t.rx = s.rx) ∧
      (i ≠ .trTxbyte → t.tx = s.tx))

/-! ### Invariants and the byte streams -/

/-- Both invariants hold after reset, under every configuration the block accepts. -/
def Obligations.InvariantsHoldAfterReset : Prop :=
  State.reset.Inv ∧ State.reset.Designed ∧
  ∀ c : Config, c.Valid → (State.resetOf c).Inv ∧ (State.resetOf c).Designed

/-- Every step keeps the invariant, whichever agent issues whichever operation: the cursors in order and within the
capacity (R21), what is readable written (R25), the memory canonical, `avail` the number of free Buffers (R28, R205 (e)),
the sequencers in range with their accumulators (R30 to R38), the queues exactly the Buffers so owned (R40, R41), `ERRQ`
within its depth (R42). -/
def Obligations.InvariantKeptByEveryStep : Prop := ∀ s t : State, s.Inv → step s = .next t → t.Inv

/-- Every step of a block run as designed (R256) keeps the further invariants: an open read buffer is empty (R27), a
closed one is not (R276), an open write buffer is not full (R173 (c)), the queued Buffers are closed (R40, R41). -/
def Obligations.DesignedKeptByDesignedSteps : Prop :=
  ∀ s t : State, s.Inv → s.Designed → step s = .next t →
    (∀ a w n rest i, s.pending = .command a w n :: rest → decode s.cfg w = .ok i → AsDesigned a i) → t.Designed

/-- In a block run as designed whose pool Buffers hold the longest frame, an internal agent raises no fault but
`F_RX_OVERRUN`, and that only with both ingress buffers closed (R174, R197, R224, R257). -/
def Obligations.InternalAgentsFaultOnlyOnOverrun : Prop :=
  ∀ (i : Instr) (s t : State), s.Inv → s.Designed → maxStored s.cfg ≤ s.cfg.poolCap →
    s.port ≠ .host → AsDesigned s.port i → exec i s = .next t →
      t.fault = s.fault ∨
      ((∃ b, i = .trRxbyte b) ∧ (s.buf (s.wh .ing)).closed = true ∧ (s.buf (s.rh .ing)).closed = true ∧
        t.fault = s.fault ||| 0b000010)

/-- FIFO on the ingress side (R70): an accepted link byte goes to the end of the bytes in flight, `PAR.FETCH` latches the
first of them or holds, and no other operation of a block run as designed changes them, but for reset. -/
def Obligations.IngressBytesKeepTheirOrder : Prop :=
  ∀ (i : Instr) (s t : State), s.Inv → s.Designed → AsDesigned s.port i → exec i s = .next t → i ≠ .sysReset →
    (∀ b, i = .trRxbyte b → s.port = .rx →
      t.inFlight .ing = s.inFlight .ing ++ [b] ∨
      t.inFlight .ing = s.inFlight .ing ∧ t.fault = s.fault ||| 0b000010) ∧
    (i = .parFetch → s.port = .parser →
      (∃ b, t.platch = some b ∧ s.inFlight .ing = b :: t.inFlight .ing) ∨ t = s.answer 0x0300) ∧
    ((∀ b, i = .trRxbyte b → s.port ≠ .rx) → (i = .parFetch → s.port ≠ .parser) → t.inFlight .ing = s.inFlight .ing)

/-- FIFO on the egress side (R70): `TX` followed by the bytes in flight is changed by the Framer's steps alone, which
add at most one byte to its end, but for reset. -/
def Obligations.EgressBytesKeepTheirOrder : Prop :=
  ∀ (i : Instr) (s t : State), s.Inv → s.Designed → AsDesigned s.port i → exec i s = .next t → i ≠ .sysReset →
    (t.egressStream = s.egressStream ∨
      i = .frmStep ∧ s.port = .framer ∧ ∃ b, t.egressStream = s.egressStream ++ [b]) ∧
    (i = .trTxbyte → s.port = .tx →
      (∃ b, t.tx = s.tx ++ [b] ∧ s.inFlight .egr = b :: t.inFlight .egr) ∨ t = s.answer 0x0300)

/-- The round trip (R228), at the Parser: what the Framer emits for a Buffer that satisfies R227 is accepted, and the
queued Buffer has the same content, whichever free Buffer it is. -/
def Obligations.ParserAcceptsWhatTheFramerEmits : Prop :=
  ∀ (x : List Byte) (run : List (Byte × Nat)) (s : State),
    s.Inv → s.platch = none → s.pstate = .seekPreamble 0 → 0 < s.avail →
    s.cfg.minFrameLen ≤ s.cfg.k + 1 + x.length → s.cfg.k + 1 + x.length ≤ 255 → x.length ≤ s.cfg.poolCap →
    x[0]? = some (BitVec.ofNat 8 (s.cfg.k + 1 + x.length)) → run.map Prod.fst = emittedFrame s.cfg x →
      ∃ t h, feedParser run s = .next t ∧ t.errq = s.errq ∧ t.fault = s.fault ∧
        t.qOut = s.qOut ++ [h] ∧ t.content h = x
end

