-- ==== Sys2Proof/Laws/Memory.lean ====
section
/-! SUPPORT. The memory: what a read gives after a write, and that every memory operation keeps the canonical form. -/

namespace Sys2Proof.Machine

/-- Two addresses of the spec share a key only if they are the same address (R52). -/
theorem addr_inj {h h' : Handle} {i i' : Nat} (e : addr h i = addr h' i') : h = h' ∧ i = i' := by
  have := h.isLt
  have := h'.isLt
  simp only [addr] at e
  exact ⟨BitVec.eq_of_toNat_eq (by omega), by omega⟩

theorem addr_eq_iff {h h' : Handle} {i i' : Nat} : addr h i = addr h' i' ↔ h = h' ∧ i = i' :=
  ⟨addr_inj, fun ⟨a, b⟩ => by rw [a, b]⟩

/-- A read of the key written gives the byte written. -/
@[simp] theorem Memory.read_write_same (m : Memory) (a : Nat) (b : Byte) : (m.write a b).read a = some b := by
  induction m with
  | nil => simp [Memory.write, Memory.read]
  | cons c m ih =>
    obtain ⟨k, v⟩ := c
    simp only [Memory.write]
    split
    · simp [Memory.read]
    · split
      · simp [Memory.read]
      · rw [Memory.read, if_neg ‹_›]; exact ih

/-- A write leaves what every other key reads as. -/
theorem Memory.read_write_other (m : Memory) {a a' : Nat} (b : Byte) (ne : a' ≠ a) :
    (m.write a b).read a' = m.read a' := by
  induction m with
  | nil => simp [Memory.write, Memory.read, ne]
  | cons c m ih =>
    obtain ⟨k, v⟩ := c
    simp only [Memory.write]
    split
    · rw [Memory.read, if_neg ne]
    · split
      · subst_vars
        simp [Memory.read, ne]
      · simp only [Memory.read, ih]

/-- What a read gives after a write. -/
theorem Memory.read_write (m : Memory) (a a' : Nat) (b : Byte) :
    (m.write a b).read a' = if a' = a then some b else m.read a' := by
  split
  · subst_vars; exact read_write_same ..
  · exact read_write_other _ _ ‹_›

/-- The keys listed after a write: the ones before, and the one written. -/
theorem Memory.mem_write {m : Memory} {a : Nat} {b : Byte} {c : Host.Cell} (hc : c ∈ m.write a b) :
    c = (a, b) ∨ c ∈ m := by
  induction m with
  | nil => simpa [Memory.write] using hc
  | cons x m ih =>
    obtain ⟨k, v⟩ := x
    simp only [Memory.write] at hc
    split at hc
    · simpa using hc
    · split at hc
      · rcases List.mem_cons.mp hc with h | h
        · exact .inl h
        · exact .inr (List.mem_cons_of_mem _ h)
      · rcases List.mem_cons.mp hc with h | h
        · exact .inr (h ▸ List.mem_cons_self)
        · exact (ih h).imp_right (List.mem_cons_of_mem _)

/-- The canonical form says that the keys are strictly rising. -/
theorem Memory.wf_iff (m : Memory) : m.wf = true ↔ m.Pairwise fun c c' => c.1 < c'.1 := by
  induction m with
  | nil => simp [Memory.wf]
  | cons c m ih =>
    cases m with
    | nil => simp [Memory.wf]
    | cons c' m =>
      simp only [Memory.wf, Bool.and_eq_true, decide_eq_true_eq, ih, List.pairwise_cons, List.mem_cons, forall_eq_or_imp]
      constructor
      · rintro ⟨lt, below, rest⟩
        exact ⟨⟨lt, fun x hx => lt_trans lt (below x hx)⟩, below, rest⟩
      · rintro ⟨⟨lt, -⟩, below, rest⟩
        exact ⟨lt, below, rest⟩

/-- A write keeps the canonical form. -/
theorem Memory.write_wf {m : Memory} (a : Nat) (b : Byte) (w : m.wf = true) : (m.write a b).wf = true := by
  rw [Memory.wf_iff] at *
  induction m with
  | nil => simp [Memory.write]
  | cons c m ih =>
    obtain ⟨k, v⟩ := c
    rw [List.pairwise_cons] at w
    simp only [Memory.write]
    split
    · rename_i lt
      refine List.pairwise_cons.mpr ⟨?_, List.pairwise_cons.mpr w⟩
      intro x hx
      rcases List.mem_cons.mp hx with rfl | hx
      · exact lt
      · exact lt_trans lt (w.1 x hx)
    · split
      · subst_vars
        exact List.pairwise_cons.mpr w
      · refine List.pairwise_cons.mpr ⟨?_, ih w.2⟩
        intro x hx
        rcases Memory.mem_write hx with rfl | hx
        · dsimp only; omega
        · exact w.1 x hx

/-- The memory after reset has the canonical form. -/
theorem Memory.reset_wf : State.reset.mem.wf = true := rfl

end Sys2Proof.Machine
end

