-- ==== Sys2Proof/Laws/State.lean ====
section
/-! SUPPORT. The fields of a state after each named update: one lemma per field per update, so that no proof unfolds
a record update. -/

namespace Sys2Proof.Machine

/-! ### `setBuf` -/

@[simp] theorem State.setBuf_cfg (s : State) (h : Handle) (b : Buf) : (s.setBuf h b).cfg = s.cfg := rfl
@[simp] theorem State.setBuf_bufs (s : State) (h : Handle) (b : Buf) : (s.setBuf h b).bufs = s.bufs.set (bufIndex h) b := rfl
@[simp] theorem State.setBuf_mem (s : State) (h : Handle) (b : Buf) : (s.setBuf h b).mem = s.mem := rfl
@[simp] theorem State.setBuf_awIng (s : State) (h : Handle) (b : Buf) : (s.setBuf h b).awIng = s.awIng := rfl
@[simp] theorem State.setBuf_awEgr (s : State) (h : Handle) (b : Buf) : (s.setBuf h b).awEgr = s.awEgr := rfl
@[simp] theorem State.setBuf_avail (s : State) (h : Handle) (b : Buf) : (s.setBuf h b).avail = s.avail := rfl
@[simp] theorem State.setBuf_owner (s : State) (h : Handle) (b : Buf) : (s.setBuf h b).owner = s.owner := rfl
@[simp] theorem State.setBuf_pstate (s : State) (h : Handle) (b : Buf) : (s.setBuf h b).pstate = s.pstate := rfl
@[simp] theorem State.setBuf_pacc (s : State) (h : Handle) (b : Buf) : (s.setBuf h b).pacc = s.pacc := rfl
@[simp] theorem State.setBuf_pcur (s : State) (h : Handle) (b : Buf) : (s.setBuf h b).pcur = s.pcur := rfl
@[simp] theorem State.setBuf_platch (s : State) (h : Handle) (b : Buf) : (s.setBuf h b).platch = s.platch := rfl
@[simp] theorem State.setBuf_fstate (s : State) (h : Handle) (b : Buf) : (s.setBuf h b).fstate = s.fstate := rfl
@[simp] theorem State.setBuf_facc (s : State) (h : Handle) (b : Buf) : (s.setBuf h b).facc = s.facc := rfl
@[simp] theorem State.setBuf_fcur (s : State) (h : Handle) (b : Buf) : (s.setBuf h b).fcur = s.fcur := rfl
@[simp] theorem State.setBuf_qOut (s : State) (h : Handle) (b : Buf) : (s.setBuf h b).qOut = s.qOut := rfl
@[simp] theorem State.setBuf_qIn (s : State) (h : Handle) (b : Buf) : (s.setBuf h b).qIn = s.qIn := rfl
@[simp] theorem State.setBuf_errq (s : State) (h : Handle) (b : Buf) : (s.setBuf h b).errq = s.errq := rfl
@[simp] theorem State.setBuf_fault (s : State) (h : Handle) (b : Buf) : (s.setBuf h b).fault = s.fault := rfl
@[simp] theorem State.setBuf_rx (s : State) (h : Handle) (b : Buf) : (s.setBuf h b).rx = s.rx := rfl
@[simp] theorem State.setBuf_tx (s : State) (h : Handle) (b : Buf) : (s.setBuf h b).tx = s.tx := rfl
@[simp] theorem State.setBuf_rsp (s : State) (h : Handle) (b : Buf) : (s.setBuf h b).rsp = s.rsp := rfl
@[simp] theorem State.setBuf_port (s : State) (h : Handle) (b : Buf) : (s.setBuf h b).port = s.port := rfl
@[simp] theorem State.setBuf_pick (s : State) (h : Handle) (b : Buf) : (s.setBuf h b).pick = s.pick := rfl
@[simp] theorem State.setBuf_pending (s : State) (h : Handle) (b : Buf) : (s.setBuf h b).pending = s.pending := rfl
@[simp] theorem State.setBuf_epoch (s : State) (h : Handle) (b : Buf) : (s.setBuf h b).epoch = s.epoch := rfl

/-! ### `setOwner` -/

@[simp] theorem State.setOwner_cfg (s : State) (h : Handle) (o : Owner) : (s.setOwner h o).cfg = s.cfg := rfl
@[simp] theorem State.setOwner_bufs (s : State) (h : Handle) (o : Owner) : (s.setOwner h o).bufs = s.bufs := rfl
@[simp] theorem State.setOwner_mem (s : State) (h : Handle) (o : Owner) : (s.setOwner h o).mem = s.mem := rfl
@[simp] theorem State.setOwner_awIng (s : State) (h : Handle) (o : Owner) : (s.setOwner h o).awIng = s.awIng := rfl
@[simp] theorem State.setOwner_awEgr (s : State) (h : Handle) (o : Owner) : (s.setOwner h o).awEgr = s.awEgr := rfl
@[simp] theorem State.setOwner_avail (s : State) (h : Handle) (o : Owner) : (s.setOwner h o).avail = s.avail := rfl
@[simp] theorem State.setOwner_owner (s : State) (h : Handle) (o : Owner) : (s.setOwner h o).owner = s.owner.set (poolIndex h) o := rfl
@[simp] theorem State.setOwner_pstate (s : State) (h : Handle) (o : Owner) : (s.setOwner h o).pstate = s.pstate := rfl
@[simp] theorem State.setOwner_pacc (s : State) (h : Handle) (o : Owner) : (s.setOwner h o).pacc = s.pacc := rfl
@[simp] theorem State.setOwner_pcur (s : State) (h : Handle) (o : Owner) : (s.setOwner h o).pcur = s.pcur := rfl
@[simp] theorem State.setOwner_platch (s : State) (h : Handle) (o : Owner) : (s.setOwner h o).platch = s.platch := rfl
@[simp] theorem State.setOwner_fstate (s : State) (h : Handle) (o : Owner) : (s.setOwner h o).fstate = s.fstate := rfl
@[simp] theorem State.setOwner_facc (s : State) (h : Handle) (o : Owner) : (s.setOwner h o).facc = s.facc := rfl
@[simp] theorem State.setOwner_fcur (s : State) (h : Handle) (o : Owner) : (s.setOwner h o).fcur = s.fcur := rfl
@[simp] theorem State.setOwner_qOut (s : State) (h : Handle) (o : Owner) : (s.setOwner h o).qOut = s.qOut := rfl
@[simp] theorem State.setOwner_qIn (s : State) (h : Handle) (o : Owner) : (s.setOwner h o).qIn = s.qIn := rfl
@[simp] theorem State.setOwner_errq (s : State) (h : Handle) (o : Owner) : (s.setOwner h o).errq = s.errq := rfl
@[simp] theorem State.setOwner_fault (s : State) (h : Handle) (o : Owner) : (s.setOwner h o).fault = s.fault := rfl
@[simp] theorem State.setOwner_rx (s : State) (h : Handle) (o : Owner) : (s.setOwner h o).rx = s.rx := rfl
@[simp] theorem State.setOwner_tx (s : State) (h : Handle) (o : Owner) : (s.setOwner h o).tx = s.tx := rfl
@[simp] theorem State.setOwner_rsp (s : State) (h : Handle) (o : Owner) : (s.setOwner h o).rsp = s.rsp := rfl
@[simp] theorem State.setOwner_port (s : State) (h : Handle) (o : Owner) : (s.setOwner h o).port = s.port := rfl
@[simp] theorem State.setOwner_pick (s : State) (h : Handle) (o : Owner) : (s.setOwner h o).pick = s.pick := rfl
@[simp] theorem State.setOwner_pending (s : State) (h : Handle) (o : Owner) : (s.setOwner h o).pending = s.pending := rfl
@[simp] theorem State.setOwner_epoch (s : State) (h : Handle) (o : Owner) : (s.setOwner h o).epoch = s.epoch := rfl

/-! ### `answer` -/

@[simp] theorem State.answer_cfg (s : State) (w : RspWord) : (s.answer w).cfg = s.cfg := rfl
@[simp] theorem State.answer_bufs (s : State) (w : RspWord) : (s.answer w).bufs = s.bufs := rfl
@[simp] theorem State.answer_mem (s : State) (w : RspWord) : (s.answer w).mem = s.mem := rfl
@[simp] theorem State.answer_awIng (s : State) (w : RspWord) : (s.answer w).awIng = s.awIng := rfl
@[simp] theorem State.answer_awEgr (s : State) (w : RspWord) : (s.answer w).awEgr = s.awEgr := rfl
@[simp] theorem State.answer_avail (s : State) (w : RspWord) : (s.answer w).avail = s.avail := rfl
@[simp] theorem State.answer_owner (s : State) (w : RspWord) : (s.answer w).owner = s.owner := rfl
@[simp] theorem State.answer_pstate (s : State) (w : RspWord) : (s.answer w).pstate = s.pstate := rfl
@[simp] theorem State.answer_pacc (s : State) (w : RspWord) : (s.answer w).pacc = s.pacc := rfl
@[simp] theorem State.answer_pcur (s : State) (w : RspWord) : (s.answer w).pcur = s.pcur := rfl
@[simp] theorem State.answer_platch (s : State) (w : RspWord) : (s.answer w).platch = s.platch := rfl
@[simp] theorem State.answer_fstate (s : State) (w : RspWord) : (s.answer w).fstate = s.fstate := rfl
@[simp] theorem State.answer_facc (s : State) (w : RspWord) : (s.answer w).facc = s.facc := rfl
@[simp] theorem State.answer_fcur (s : State) (w : RspWord) : (s.answer w).fcur = s.fcur := rfl
@[simp] theorem State.answer_qOut (s : State) (w : RspWord) : (s.answer w).qOut = s.qOut := rfl
@[simp] theorem State.answer_qIn (s : State) (w : RspWord) : (s.answer w).qIn = s.qIn := rfl
@[simp] theorem State.answer_errq (s : State) (w : RspWord) : (s.answer w).errq = s.errq := rfl
@[simp] theorem State.answer_fault (s : State) (w : RspWord) : (s.answer w).fault = s.fault := rfl
@[simp] theorem State.answer_rx (s : State) (w : RspWord) : (s.answer w).rx = s.rx := rfl
@[simp] theorem State.answer_tx (s : State) (w : RspWord) : (s.answer w).tx = s.tx := rfl
@[simp] theorem State.answer_rsp (s : State) (w : RspWord) : (s.answer w).rsp = s.rsp.set s.port w := rfl
@[simp] theorem State.answer_port (s : State) (w : RspWord) : (s.answer w).port = s.port := rfl
@[simp] theorem State.answer_pick (s : State) (w : RspWord) : (s.answer w).pick = s.pick := rfl
@[simp] theorem State.answer_pending (s : State) (w : RspWord) : (s.answer w).pending = s.pending := rfl
@[simp] theorem State.answer_epoch (s : State) (w : RspWord) : (s.answer w).epoch = s.epoch := rfl

/-! ### `raise` -/

@[simp] theorem State.raise_cfg (s : State) (f : FaultName) : (s.raise f).cfg = s.cfg := rfl
@[simp] theorem State.raise_bufs (s : State) (f : FaultName) : (s.raise f).bufs = s.bufs := rfl
@[simp] theorem State.raise_mem (s : State) (f : FaultName) : (s.raise f).mem = s.mem := rfl
@[simp] theorem State.raise_awIng (s : State) (f : FaultName) : (s.raise f).awIng = s.awIng := rfl
@[simp] theorem State.raise_awEgr (s : State) (f : FaultName) : (s.raise f).awEgr = s.awEgr := rfl
@[simp] theorem State.raise_avail (s : State) (f : FaultName) : (s.raise f).avail = s.avail := rfl
@[simp] theorem State.raise_owner (s : State) (f : FaultName) : (s.raise f).owner = s.owner := rfl
@[simp] theorem State.raise_pstate (s : State) (f : FaultName) : (s.raise f).pstate = s.pstate := rfl
@[simp] theorem State.raise_pacc (s : State) (f : FaultName) : (s.raise f).pacc = s.pacc := rfl
@[simp] theorem State.raise_pcur (s : State) (f : FaultName) : (s.raise f).pcur = s.pcur := rfl
@[simp] theorem State.raise_platch (s : State) (f : FaultName) : (s.raise f).platch = s.platch := rfl
@[simp] theorem State.raise_fstate (s : State) (f : FaultName) : (s.raise f).fstate = s.fstate := rfl
@[simp] theorem State.raise_facc (s : State) (f : FaultName) : (s.raise f).facc = s.facc := rfl
@[simp] theorem State.raise_fcur (s : State) (f : FaultName) : (s.raise f).fcur = s.fcur := rfl
@[simp] theorem State.raise_qOut (s : State) (f : FaultName) : (s.raise f).qOut = s.qOut := rfl
@[simp] theorem State.raise_qIn (s : State) (f : FaultName) : (s.raise f).qIn = s.qIn := rfl
@[simp] theorem State.raise_errq (s : State) (f : FaultName) : (s.raise f).errq = s.errq := rfl
@[simp] theorem State.raise_fault (s : State) (f : FaultName) : (s.raise f).fault = s.fault ||| f.mask := rfl
@[simp] theorem State.raise_rx (s : State) (f : FaultName) : (s.raise f).rx = s.rx := rfl
@[simp] theorem State.raise_tx (s : State) (f : FaultName) : (s.raise f).tx = s.tx := rfl
@[simp] theorem State.raise_rsp (s : State) (f : FaultName) : (s.raise f).rsp = s.rsp := rfl
@[simp] theorem State.raise_port (s : State) (f : FaultName) : (s.raise f).port = s.port := rfl
@[simp] theorem State.raise_pick (s : State) (f : FaultName) : (s.raise f).pick = s.pick := rfl
@[simp] theorem State.raise_pending (s : State) (f : FaultName) : (s.raise f).pending = s.pending := rfl
@[simp] theorem State.raise_epoch (s : State) (f : FaultName) : (s.raise f).epoch = s.epoch := rfl

/-! ### `serve` -/

@[simp] theorem State.serve_cfg (s : State) (a : Agent) (n : Nat) (rest : List Event) : (s.serve a n rest).cfg = s.cfg := rfl
@[simp] theorem State.serve_bufs (s : State) (a : Agent) (n : Nat) (rest : List Event) : (s.serve a n rest).bufs = s.bufs := rfl
@[simp] theorem State.serve_mem (s : State) (a : Agent) (n : Nat) (rest : List Event) : (s.serve a n rest).mem = s.mem := rfl
@[simp] theorem State.serve_awIng (s : State) (a : Agent) (n : Nat) (rest : List Event) : (s.serve a n rest).awIng = s.awIng := rfl
@[simp] theorem State.serve_awEgr (s : State) (a : Agent) (n : Nat) (rest : List Event) : (s.serve a n rest).awEgr = s.awEgr := rfl
@[simp] theorem State.serve_avail (s : State) (a : Agent) (n : Nat) (rest : List Event) : (s.serve a n rest).avail = s.avail := rfl
@[simp] theorem State.serve_owner (s : State) (a : Agent) (n : Nat) (rest : List Event) : (s.serve a n rest).owner = s.owner := rfl
@[simp] theorem State.serve_pstate (s : State) (a : Agent) (n : Nat) (rest : List Event) : (s.serve a n rest).pstate = s.pstate := rfl
@[simp] theorem State.serve_pacc (s : State) (a : Agent) (n : Nat) (rest : List Event) : (s.serve a n rest).pacc = s.pacc := rfl
@[simp] theorem State.serve_pcur (s : State) (a : Agent) (n : Nat) (rest : List Event) : (s.serve a n rest).pcur = s.pcur := rfl
@[simp] theorem State.serve_platch (s : State) (a : Agent) (n : Nat) (rest : List Event) : (s.serve a n rest).platch = s.platch := rfl
@[simp] theorem State.serve_fstate (s : State) (a : Agent) (n : Nat) (rest : List Event) : (s.serve a n rest).fstate = s.fstate := rfl
@[simp] theorem State.serve_facc (s : State) (a : Agent) (n : Nat) (rest : List Event) : (s.serve a n rest).facc = s.facc := rfl
@[simp] theorem State.serve_fcur (s : State) (a : Agent) (n : Nat) (rest : List Event) : (s.serve a n rest).fcur = s.fcur := rfl
@[simp] theorem State.serve_qOut (s : State) (a : Agent) (n : Nat) (rest : List Event) : (s.serve a n rest).qOut = s.qOut := rfl
@[simp] theorem State.serve_qIn (s : State) (a : Agent) (n : Nat) (rest : List Event) : (s.serve a n rest).qIn = s.qIn := rfl
@[simp] theorem State.serve_errq (s : State) (a : Agent) (n : Nat) (rest : List Event) : (s.serve a n rest).errq = s.errq := rfl
@[simp] theorem State.serve_fault (s : State) (a : Agent) (n : Nat) (rest : List Event) : (s.serve a n rest).fault = s.fault := rfl
@[simp] theorem State.serve_rx (s : State) (a : Agent) (n : Nat) (rest : List Event) : (s.serve a n rest).rx = s.rx := rfl
@[simp] theorem State.serve_tx (s : State) (a : Agent) (n : Nat) (rest : List Event) : (s.serve a n rest).tx = s.tx := rfl
@[simp] theorem State.serve_rsp (s : State) (a : Agent) (n : Nat) (rest : List Event) : (s.serve a n rest).rsp = s.rsp := rfl
@[simp] theorem State.serve_port (s : State) (a : Agent) (n : Nat) (rest : List Event) : (s.serve a n rest).port = a := rfl
@[simp] theorem State.serve_pick (s : State) (a : Agent) (n : Nat) (rest : List Event) : (s.serve a n rest).pick = n := rfl
@[simp] theorem State.serve_pending (s : State) (a : Agent) (n : Nat) (rest : List Event) : (s.serve a n rest).pending = rest := rfl
@[simp] theorem State.serve_epoch (s : State) (a : Agent) (n : Nat) (rest : List Event) : (s.serve a n rest).epoch = s.epoch := rfl

/-! ### `flipAw` -/

@[simp] theorem State.flipAw_cfg (s : State) (d : DbSel) : (s.flipAw d).cfg = s.cfg := by cases d <;> rfl
@[simp] theorem State.flipAw_bufs (s : State) (d : DbSel) : (s.flipAw d).bufs = s.bufs := by cases d <;> rfl
@[simp] theorem State.flipAw_mem (s : State) (d : DbSel) : (s.flipAw d).mem = s.mem := by cases d <;> rfl
@[simp] theorem State.flipAw_avail (s : State) (d : DbSel) : (s.flipAw d).avail = s.avail := by cases d <;> rfl
@[simp] theorem State.flipAw_owner (s : State) (d : DbSel) : (s.flipAw d).owner = s.owner := by cases d <;> rfl
@[simp] theorem State.flipAw_pstate (s : State) (d : DbSel) : (s.flipAw d).pstate = s.pstate := by cases d <;> rfl
@[simp] theorem State.flipAw_pacc (s : State) (d : DbSel) : (s.flipAw d).pacc = s.pacc := by cases d <;> rfl
@[simp] theorem State.flipAw_pcur (s : State) (d : DbSel) : (s.flipAw d).pcur = s.pcur := by cases d <;> rfl
@[simp] theorem State.flipAw_platch (s : State) (d : DbSel) : (s.flipAw d).platch = s.platch := by cases d <;> rfl
@[simp] theorem State.flipAw_fstate (s : State) (d : DbSel) : (s.flipAw d).fstate = s.fstate := by cases d <;> rfl
@[simp] theorem State.flipAw_facc (s : State) (d : DbSel) : (s.flipAw d).facc = s.facc := by cases d <;> rfl
@[simp] theorem State.flipAw_fcur (s : State) (d : DbSel) : (s.flipAw d).fcur = s.fcur := by cases d <;> rfl
@[simp] theorem State.flipAw_qOut (s : State) (d : DbSel) : (s.flipAw d).qOut = s.qOut := by cases d <;> rfl
@[simp] theorem State.flipAw_qIn (s : State) (d : DbSel) : (s.flipAw d).qIn = s.qIn := by cases d <;> rfl
@[simp] theorem State.flipAw_errq (s : State) (d : DbSel) : (s.flipAw d).errq = s.errq := by cases d <;> rfl
@[simp] theorem State.flipAw_fault (s : State) (d : DbSel) : (s.flipAw d).fault = s.fault := by cases d <;> rfl
@[simp] theorem State.flipAw_rx (s : State) (d : DbSel) : (s.flipAw d).rx = s.rx := by cases d <;> rfl
@[simp] theorem State.flipAw_tx (s : State) (d : DbSel) : (s.flipAw d).tx = s.tx := by cases d <;> rfl
@[simp] theorem State.flipAw_rsp (s : State) (d : DbSel) : (s.flipAw d).rsp = s.rsp := by cases d <;> rfl
@[simp] theorem State.flipAw_port (s : State) (d : DbSel) : (s.flipAw d).port = s.port := by cases d <;> rfl
@[simp] theorem State.flipAw_pick (s : State) (d : DbSel) : (s.flipAw d).pick = s.pick := by cases d <;> rfl
@[simp] theorem State.flipAw_pending (s : State) (d : DbSel) : (s.flipAw d).pending = s.pending := by cases d <;> rfl
@[simp] theorem State.flipAw_epoch (s : State) (d : DbSel) : (s.flipAw d).epoch = s.epoch := by cases d <;> rfl

/-! ### `swapped` -/

@[simp] theorem State.swapped_cfg (s : State) (d : DbSel) : (s.swapped d).cfg = s.cfg := by cases d <;> rfl
@[simp] theorem State.swapped_bufs (s : State) (d : DbSel) : (s.swapped d).bufs = s.bufs.set (bufIndex (s.rh d)) Buf.empty := by cases d <;> rfl
@[simp] theorem State.swapped_mem (s : State) (d : DbSel) : (s.swapped d).mem = s.mem := by cases d <;> rfl
@[simp] theorem State.swapped_avail (s : State) (d : DbSel) : (s.swapped d).avail = s.avail := by cases d <;> rfl
@[simp] theorem State.swapped_owner (s : State) (d : DbSel) : (s.swapped d).owner = s.owner := by cases d <;> rfl
@[simp] theorem State.swapped_pstate (s : State) (d : DbSel) : (s.swapped d).pstate = s.pstate := by cases d <;> rfl
@[simp] theorem State.swapped_pacc (s : State) (d : DbSel) : (s.swapped d).pacc = s.pacc := by cases d <;> rfl
@[simp] theorem State.swapped_pcur (s : State) (d : DbSel) : (s.swapped d).pcur = s.pcur := by cases d <;> rfl
@[simp] theorem State.swapped_platch (s : State) (d : DbSel) : (s.swapped d).platch = s.platch := by cases d <;> rfl
@[simp] theorem State.swapped_fstate (s : State) (d : DbSel) : (s.swapped d).fstate = s.fstate := by cases d <;> rfl
@[simp] theorem State.swapped_facc (s : State) (d : DbSel) : (s.swapped d).facc = s.facc := by cases d <;> rfl
@[simp] theorem State.swapped_fcur (s : State) (d : DbSel) : (s.swapped d).fcur = s.fcur := by cases d <;> rfl
@[simp] theorem State.swapped_qOut (s : State) (d : DbSel) : (s.swapped d).qOut = s.qOut := by cases d <;> rfl
@[simp] theorem State.swapped_qIn (s : State) (d : DbSel) : (s.swapped d).qIn = s.qIn := by cases d <;> rfl
@[simp] theorem State.swapped_errq (s : State) (d : DbSel) : (s.swapped d).errq = s.errq := by cases d <;> rfl
@[simp] theorem State.swapped_fault (s : State) (d : DbSel) : (s.swapped d).fault = s.fault := by cases d <;> rfl
@[simp] theorem State.swapped_rx (s : State) (d : DbSel) : (s.swapped d).rx = s.rx := by cases d <;> rfl
@[simp] theorem State.swapped_tx (s : State) (d : DbSel) : (s.swapped d).tx = s.tx := by cases d <;> rfl
@[simp] theorem State.swapped_rsp (s : State) (d : DbSel) : (s.swapped d).rsp = s.rsp := by cases d <;> rfl
@[simp] theorem State.swapped_port (s : State) (d : DbSel) : (s.swapped d).port = s.port := by cases d <;> rfl
@[simp] theorem State.swapped_pick (s : State) (d : DbSel) : (s.swapped d).pick = s.pick := by cases d <;> rfl
@[simp] theorem State.swapped_pending (s : State) (d : DbSel) : (s.swapped d).pending = s.pending := by cases d <;> rfl
@[simp] theorem State.swapped_epoch (s : State) (d : DbSel) : (s.swapped d).epoch = s.epoch := by cases d <;> rfl

/-! ### `allocated` -/

@[simp] theorem State.allocated_cfg (s : State) (a : Agent) (p : Nat) : (s.allocated a p).cfg = s.cfg := rfl
@[simp] theorem State.allocated_bufs (s : State) (a : Agent) (p : Nat) : (s.allocated a p).bufs = s.bufs.set (bufIndex (poolHandle p)) Buf.empty := rfl
@[simp] theorem State.allocated_mem (s : State) (a : Agent) (p : Nat) : (s.allocated a p).mem = s.mem := rfl
@[simp] theorem State.allocated_awIng (s : State) (a : Agent) (p : Nat) : (s.allocated a p).awIng = s.awIng := rfl
@[simp] theorem State.allocated_awEgr (s : State) (a : Agent) (p : Nat) : (s.allocated a p).awEgr = s.awEgr := rfl
@[simp] theorem State.allocated_avail (s : State) (a : Agent) (p : Nat) : (s.allocated a p).avail = s.avail - 1 := rfl
@[simp] theorem State.allocated_owner (s : State) (a : Agent) (p : Nat) : (s.allocated a p).owner = s.owner.set (poolIndex (poolHandle p)) (allocOwner a) := rfl
@[simp] theorem State.allocated_pstate (s : State) (a : Agent) (p : Nat) : (s.allocated a p).pstate = s.pstate := rfl
@[simp] theorem State.allocated_pacc (s : State) (a : Agent) (p : Nat) : (s.allocated a p).pacc = s.pacc := rfl
@[simp] theorem State.allocated_pcur (s : State) (a : Agent) (p : Nat) : (s.allocated a p).pcur = s.pcur := rfl
@[simp] theorem State.allocated_platch (s : State) (a : Agent) (p : Nat) : (s.allocated a p).platch = s.platch := rfl
@[simp] theorem State.allocated_fstate (s : State) (a : Agent) (p : Nat) : (s.allocated a p).fstate = s.fstate := rfl
@[simp] theorem State.allocated_facc (s : State) (a : Agent) (p : Nat) : (s.allocated a p).facc = s.facc := rfl
@[simp] theorem State.allocated_fcur (s : State) (a : Agent) (p : Nat) : (s.allocated a p).fcur = s.fcur := rfl
@[simp] theorem State.allocated_qOut (s : State) (a : Agent) (p : Nat) : (s.allocated a p).qOut = s.qOut := rfl
@[simp] theorem State.allocated_qIn (s : State) (a : Agent) (p : Nat) : (s.allocated a p).qIn = s.qIn := rfl
@[simp] theorem State.allocated_errq (s : State) (a : Agent) (p : Nat) : (s.allocated a p).errq = s.errq := rfl
@[simp] theorem State.allocated_fault (s : State) (a : Agent) (p : Nat) : (s.allocated a p).fault = s.fault := rfl
@[simp] theorem State.allocated_rx (s : State) (a : Agent) (p : Nat) : (s.allocated a p).rx = s.rx := rfl
@[simp] theorem State.allocated_tx (s : State) (a : Agent) (p : Nat) : (s.allocated a p).tx = s.tx := rfl
@[simp] theorem State.allocated_rsp (s : State) (a : Agent) (p : Nat) : (s.allocated a p).rsp = s.rsp := rfl
@[simp] theorem State.allocated_port (s : State) (a : Agent) (p : Nat) : (s.allocated a p).port = s.port := rfl
@[simp] theorem State.allocated_pick (s : State) (a : Agent) (p : Nat) : (s.allocated a p).pick = s.pick := rfl
@[simp] theorem State.allocated_pending (s : State) (a : Agent) (p : Nat) : (s.allocated a p).pending = s.pending := rfl
@[simp] theorem State.allocated_epoch (s : State) (a : Agent) (p : Nat) : (s.allocated a p).epoch = s.epoch := rfl

/-! ### `enterRecovery` -/

@[simp] theorem State.enterRecovery_cfg (s : State) (b : Byte) : (enterRecovery b s).cfg = s.cfg := by unfold enterRecovery scan; split <;> rfl
@[simp] theorem State.enterRecovery_bufs (s : State) (b : Byte) : (enterRecovery b s).bufs = s.bufs := by unfold enterRecovery scan; split <;> rfl
@[simp] theorem State.enterRecovery_mem (s : State) (b : Byte) : (enterRecovery b s).mem = s.mem := by unfold enterRecovery scan; split <;> rfl
@[simp] theorem State.enterRecovery_awIng (s : State) (b : Byte) : (enterRecovery b s).awIng = s.awIng := by unfold enterRecovery scan; split <;> rfl
@[simp] theorem State.enterRecovery_awEgr (s : State) (b : Byte) : (enterRecovery b s).awEgr = s.awEgr := by unfold enterRecovery scan; split <;> rfl
@[simp] theorem State.enterRecovery_avail (s : State) (b : Byte) : (enterRecovery b s).avail = s.avail := by unfold enterRecovery scan; split <;> rfl
@[simp] theorem State.enterRecovery_owner (s : State) (b : Byte) : (enterRecovery b s).owner = s.owner := by unfold enterRecovery scan; split <;> rfl
@[simp] theorem State.enterRecovery_pcur (s : State) (b : Byte) : (enterRecovery b s).pcur = s.pcur := by unfold enterRecovery scan; split <;> rfl
@[simp] theorem State.enterRecovery_platch (s : State) (b : Byte) : (enterRecovery b s).platch = s.platch := by unfold enterRecovery scan; split <;> rfl
@[simp] theorem State.enterRecovery_fstate (s : State) (b : Byte) : (enterRecovery b s).fstate = s.fstate := by unfold enterRecovery scan; split <;> rfl
@[simp] theorem State.enterRecovery_facc (s : State) (b : Byte) : (enterRecovery b s).facc = s.facc := by unfold enterRecovery scan; split <;> rfl
@[simp] theorem State.enterRecovery_fcur (s : State) (b : Byte) : (enterRecovery b s).fcur = s.fcur := by unfold enterRecovery scan; split <;> rfl
@[simp] theorem State.enterRecovery_qOut (s : State) (b : Byte) : (enterRecovery b s).qOut = s.qOut := by unfold enterRecovery scan; split <;> rfl
@[simp] theorem State.enterRecovery_qIn (s : State) (b : Byte) : (enterRecovery b s).qIn = s.qIn := by unfold enterRecovery scan; split <;> rfl
@[simp] theorem State.enterRecovery_errq (s : State) (b : Byte) : (enterRecovery b s).errq = s.errq := by unfold enterRecovery scan; split <;> rfl
@[simp] theorem State.enterRecovery_fault (s : State) (b : Byte) : (enterRecovery b s).fault = s.fault := by unfold enterRecovery scan; split <;> rfl
@[simp] theorem State.enterRecovery_rx (s : State) (b : Byte) : (enterRecovery b s).rx = s.rx := by unfold enterRecovery scan; split <;> rfl
@[simp] theorem State.enterRecovery_tx (s : State) (b : Byte) : (enterRecovery b s).tx = s.tx := by unfold enterRecovery scan; split <;> rfl
@[simp] theorem State.enterRecovery_rsp (s : State) (b : Byte) : (enterRecovery b s).rsp = s.rsp := by unfold enterRecovery scan; split <;> rfl
@[simp] theorem State.enterRecovery_port (s : State) (b : Byte) : (enterRecovery b s).port = s.port := by unfold enterRecovery scan; split <;> rfl
@[simp] theorem State.enterRecovery_pick (s : State) (b : Byte) : (enterRecovery b s).pick = s.pick := by unfold enterRecovery scan; split <;> rfl
@[simp] theorem State.enterRecovery_pending (s : State) (b : Byte) : (enterRecovery b s).pending = s.pending := by unfold enterRecovery scan; split <;> rfl
@[simp] theorem State.enterRecovery_epoch (s : State) (b : Byte) : (enterRecovery b s).epoch = s.epoch := by unfold enterRecovery scan; split <;> rfl

/-! ### `received` -/

@[simp] theorem State.received_cfg (s : State) (b : Byte) : (s.received b).cfg = s.cfg := by unfold State.received; split <;> rfl
@[simp] theorem State.received_bufs (s : State) (b : Byte) : (s.received b).bufs = s.bufs := by unfold State.received; split <;> rfl
@[simp] theorem State.received_mem (s : State) (b : Byte) : (s.received b).mem = s.mem := by unfold State.received; split <;> rfl
@[simp] theorem State.received_awIng (s : State) (b : Byte) : (s.received b).awIng = s.awIng := by unfold State.received; split <;> rfl
@[simp] theorem State.received_awEgr (s : State) (b : Byte) : (s.received b).awEgr = s.awEgr := by unfold State.received; split <;> rfl
@[simp] theorem State.received_avail (s : State) (b : Byte) : (s.received b).avail = s.avail := by unfold State.received; split <;> rfl
@[simp] theorem State.received_owner (s : State) (b : Byte) : (s.received b).owner = s.owner := by unfold State.received; split <;> rfl
@[simp] theorem State.received_pstate (s : State) (b : Byte) : (s.received b).pstate = s.pstate := by unfold State.received; split <;> rfl
@[simp] theorem State.received_pacc (s : State) (b : Byte) : (s.received b).pacc = s.pacc := by unfold State.received; split <;> rfl
@[simp] theorem State.received_pcur (s : State) (b : Byte) : (s.received b).pcur = s.pcur := by unfold State.received; split <;> rfl
@[simp] theorem State.received_platch (s : State) (b : Byte) : (s.received b).platch = s.platch := by unfold State.received; split <;> rfl
@[simp] theorem State.received_fstate (s : State) (b : Byte) : (s.received b).fstate = s.fstate := by unfold State.received; split <;> rfl
@[simp] theorem State.received_facc (s : State) (b : Byte) : (s.received b).facc = s.facc := by unfold State.received; split <;> rfl
@[simp] theorem State.received_fcur (s : State) (b : Byte) : (s.received b).fcur = s.fcur := by unfold State.received; split <;> rfl
@[simp] theorem State.received_qOut (s : State) (b : Byte) : (s.received b).qOut = s.qOut := by unfold State.received; split <;> rfl
@[simp] theorem State.received_qIn (s : State) (b : Byte) : (s.received b).qIn = s.qIn := by unfold State.received; split <;> rfl
@[simp] theorem State.received_errq (s : State) (b : Byte) : (s.received b).errq = s.errq := by unfold State.received; split <;> rfl
@[simp] theorem State.received_fault (s : State) (b : Byte) : (s.received b).fault = s.fault := by unfold State.received; split <;> rfl
@[simp] theorem State.received_tx (s : State) (b : Byte) : (s.received b).tx = s.tx := by unfold State.received; split <;> rfl
@[simp] theorem State.received_rsp (s : State) (b : Byte) : (s.received b).rsp = s.rsp := by unfold State.received; split <;> rfl
@[simp] theorem State.received_port (s : State) (b : Byte) : (s.received b).port = s.port := by unfold State.received; split <;> rfl
@[simp] theorem State.received_pick (s : State) (b : Byte) : (s.received b).pick = s.pick := by unfold State.received; split <;> rfl
@[simp] theorem State.received_pending (s : State) (b : Byte) : (s.received b).pending = s.pending := by unfold State.received; split <;> rfl
@[simp] theorem State.received_epoch (s : State) (b : Byte) : (s.received b).epoch = s.epoch := by unfold State.received; split <;> rfl

/-! ### `sent` -/

@[simp] theorem State.sent_cfg (s : State) (r : Reply) : (s.sent r).cfg = s.cfg := by cases r <;> rfl
@[simp] theorem State.sent_bufs (s : State) (r : Reply) : (s.sent r).bufs = s.bufs := by cases r <;> rfl
@[simp] theorem State.sent_mem (s : State) (r : Reply) : (s.sent r).mem = s.mem := by cases r <;> rfl
@[simp] theorem State.sent_awIng (s : State) (r : Reply) : (s.sent r).awIng = s.awIng := by cases r <;> rfl
@[simp] theorem State.sent_awEgr (s : State) (r : Reply) : (s.sent r).awEgr = s.awEgr := by cases r <;> rfl
@[simp] theorem State.sent_avail (s : State) (r : Reply) : (s.sent r).avail = s.avail := by cases r <;> rfl
@[simp] theorem State.sent_owner (s : State) (r : Reply) : (s.sent r).owner = s.owner := by cases r <;> rfl
@[simp] theorem State.sent_pstate (s : State) (r : Reply) : (s.sent r).pstate = s.pstate := by cases r <;> rfl
@[simp] theorem State.sent_pacc (s : State) (r : Reply) : (s.sent r).pacc = s.pacc := by cases r <;> rfl
@[simp] theorem State.sent_pcur (s : State) (r : Reply) : (s.sent r).pcur = s.pcur := by cases r <;> rfl
@[simp] theorem State.sent_platch (s : State) (r : Reply) : (s.sent r).platch = s.platch := by cases r <;> rfl
@[simp] theorem State.sent_fstate (s : State) (r : Reply) : (s.sent r).fstate = s.fstate := by cases r <;> rfl
@[simp] theorem State.sent_facc (s : State) (r : Reply) : (s.sent r).facc = s.facc := by cases r <;> rfl
@[simp] theorem State.sent_fcur (s : State) (r : Reply) : (s.sent r).fcur = s.fcur := by cases r <;> rfl
@[simp] theorem State.sent_qOut (s : State) (r : Reply) : (s.sent r).qOut = s.qOut := by cases r <;> rfl
@[simp] theorem State.sent_qIn (s : State) (r : Reply) : (s.sent r).qIn = s.qIn := by cases r <;> rfl
@[simp] theorem State.sent_errq (s : State) (r : Reply) : (s.sent r).errq = s.errq := by cases r <;> rfl
@[simp] theorem State.sent_fault (s : State) (r : Reply) : (s.sent r).fault = s.fault := by cases r <;> rfl
@[simp] theorem State.sent_rx (s : State) (r : Reply) : (s.sent r).rx = s.rx := by cases r <;> rfl
@[simp] theorem State.sent_rsp (s : State) (r : Reply) : (s.sent r).rsp = s.rsp := by cases r <;> rfl
@[simp] theorem State.sent_port (s : State) (r : Reply) : (s.sent r).port = s.port := by cases r <;> rfl
@[simp] theorem State.sent_pick (s : State) (r : Reply) : (s.sent r).pick = s.pick := by cases r <;> rfl
@[simp] theorem State.sent_pending (s : State) (r : Reply) : (s.sent r).pending = s.pending := by cases r <;> rfl
@[simp] theorem State.sent_epoch (s : State) (r : Reply) : (s.sent r).epoch = s.epoch := by cases r <;> rfl

/-! ### `resetRegisters` -/

@[simp] theorem State.resetRegisters_cfg (s : State) : (s.resetRegisters).cfg = s.cfg := rfl
@[simp] theorem State.resetRegisters_bufs (s : State) : (s.resetRegisters).bufs = (State.resetOf s.cfg).bufs := rfl
@[simp] theorem State.resetRegisters_mem (s : State) : (s.resetRegisters).mem = (State.resetOf s.cfg).mem := rfl
@[simp] theorem State.resetRegisters_awIng (s : State) : (s.resetRegisters).awIng = (State.resetOf s.cfg).awIng := rfl
@[simp] theorem State.resetRegisters_awEgr (s : State) : (s.resetRegisters).awEgr = (State.resetOf s.cfg).awEgr := rfl
@[simp] theorem State.resetRegisters_avail (s : State) : (s.resetRegisters).avail = (State.resetOf s.cfg).avail := rfl
@[simp] theorem State.resetRegisters_owner (s : State) : (s.resetRegisters).owner = (State.resetOf s.cfg).owner := rfl
@[simp] theorem State.resetRegisters_pstate (s : State) : (s.resetRegisters).pstate = (State.resetOf s.cfg).pstate := rfl
@[simp] theorem State.resetRegisters_pacc (s : State) : (s.resetRegisters).pacc = (State.resetOf s.cfg).pacc := rfl
@[simp] theorem State.resetRegisters_pcur (s : State) : (s.resetRegisters).pcur = (State.resetOf s.cfg).pcur := rfl
@[simp] theorem State.resetRegisters_platch (s : State) : (s.resetRegisters).platch = (State.resetOf s.cfg).platch := rfl
@[simp] theorem State.resetRegisters_fstate (s : State) : (s.resetRegisters).fstate = (State.resetOf s.cfg).fstate := rfl
@[simp] theorem State.resetRegisters_facc (s : State) : (s.resetRegisters).facc = (State.resetOf s.cfg).facc := rfl
@[simp] theorem State.resetRegisters_fcur (s : State) : (s.resetRegisters).fcur = (State.resetOf s.cfg).fcur := rfl
@[simp] theorem State.resetRegisters_qOut (s : State) : (s.resetRegisters).qOut = (State.resetOf s.cfg).qOut := rfl
@[simp] theorem State.resetRegisters_qIn (s : State) : (s.resetRegisters).qIn = (State.resetOf s.cfg).qIn := rfl
@[simp] theorem State.resetRegisters_errq (s : State) : (s.resetRegisters).errq = (State.resetOf s.cfg).errq := rfl
@[simp] theorem State.resetRegisters_fault (s : State) : (s.resetRegisters).fault = (State.resetOf s.cfg).fault := rfl
@[simp] theorem State.resetRegisters_rx (s : State) : (s.resetRegisters).rx = (State.resetOf s.cfg).rx := rfl
@[simp] theorem State.resetRegisters_tx (s : State) : (s.resetRegisters).tx = (State.resetOf s.cfg).tx := rfl
@[simp] theorem State.resetRegisters_rsp (s : State) : (s.resetRegisters).rsp = s.rsp := rfl
@[simp] theorem State.resetRegisters_port (s : State) : (s.resetRegisters).port = s.port := rfl
@[simp] theorem State.resetRegisters_pick (s : State) : (s.resetRegisters).pick = s.pick := rfl
@[simp] theorem State.resetRegisters_pending (s : State) : (s.resetRegisters).pending = s.pending := rfl
@[simp] theorem State.resetRegisters_epoch (s : State) : (s.resetRegisters).epoch = s.epoch + 1 := rfl

/-! ### The selector -/

@[simp] theorem State.flipAw_aw (s : State) (d : DbSel) : (s.flipAw d).aw d = !s.aw d := by cases d <;> rfl

@[simp] theorem State.flipAw_aw_ing_egr (s : State) : (s.flipAw .ing).aw .egr = s.aw .egr := rfl

@[simp] theorem State.flipAw_aw_egr_ing (s : State) : (s.flipAw .egr).aw .ing = s.aw .ing := rfl

@[simp] theorem State.setBuf_aw (s : State) (h : Handle) (b : Buf) (d : DbSel) : (s.setBuf h b).aw d = s.aw d := by
  cases d <;> rfl

/-- After a swap the old read buffer is the write buffer (R147). -/
@[simp] theorem State.swapped_wh (s : State) (d : DbSel) : (s.swapped d).wh d = s.rh d := by cases d <;> rfl

/-- After a swap the old write buffer is the read buffer (R147). -/
@[simp] theorem State.swapped_rh (s : State) (d : DbSel) : (s.swapped d).rh d = s.wh d := by
  cases d <;> simp [State.swapped, State.rh, State.wh, State.aw, State.flipAw, State.setBuf]

@[simp] theorem State.swapped_wh_ing_egr (s : State) : (s.swapped .ing).wh .egr = s.wh .egr := rfl

@[simp] theorem State.swapped_rh_ing_egr (s : State) : (s.swapped .ing).rh .egr = s.rh .egr := rfl

@[simp] theorem State.swapped_wh_egr_ing (s : State) : (s.swapped .egr).wh .ing = s.wh .ing := rfl

@[simp] theorem State.swapped_rh_egr_ing (s : State) : (s.swapped .egr).rh .ing = s.rh .ing := rfl

end Sys2Proof.Machine
end

