-- ==== Sys2Proof/Laws/Ops.lean ====
section
/-! SUPPORT. For each shared operation, one lemma that says everything it can do when it is performed, and what the
response to an operation is. Later proofs cite these and do not unfold the operations. -/

namespace Sys2Proof.Machine

/-! ### Results -/

@[simp] theorem Res.bind_done {α β : Type} (v : α) (s : State) (k : α → State → Res β) :
    (Res.done v s).bind k = k v s := rfl

@[simp] theorem Res.bind_abort {α β : Type} (a : Abort) (k : α → State → Res β) :
    (Res.abort a).bind k = .abort a := rfl

/-- What is performed, read from the right. -/
theorem Res.done_eq_done {α : Type} {v v' : α} {s s' : State} : Res.done v s = .done v' s' ↔ v' = v ∧ s' = s := by
  simp [eq_comm]

/-- A composed operation is performed exactly when both parts are. -/
theorem Res.bind_eq_done {α β : Type} {r : Res α} {k : α → State → Res β} {v : β} {t : State} :
    r.bind k = .done v t ↔ ∃ u s, r = .done u s ∧ k u s = .done v t := by
  cases r <;> simp [Res.bind]

/-- A composed operation ends early exactly when a part does. -/
theorem Res.bind_eq_abort {α β : Type} {r : Res α} {k : α → State → Res β} {a : Abort} :
    r.bind k = .abort a ↔ r = .abort a ∨ ∃ u s, r = .done u s ∧ k u s = .abort a := by
  cases r <;> simp [Res.bind]

theorem holdUnless_eq_done {α : Type} {c : Prop} [Decidable c] {k : Res α} {v : α} {t : State} :
    holdUnless c k = .done v t ↔ c ∧ k = .done v t := by
  unfold holdUnless; split <;> simp [*]

theorem faultUnless_eq_done {α : Type} {c : Prop} [Decidable c] {f : FaultName} {k : Res α} {v : α} {t : State} :
    faultUnless c f k = .done v t ↔ c ∧ k = .done v t := by
  unfold faultUnless; split <;> simp [*]

theorem legalHandle_eq_done {α : Type} {h : Handle} {s : State} {k : Res α} {v : α} {t : State} :
    legalHandle h s k = .done v t ↔ isLegalHandle s.cfg h ∧ k = .done v t := faultUnless_eq_done

/-- A Buffer operation is performed only by the agent that owns the Buffer (R256). -/
theorem owning_eq_done {α : Type} {a : Agent} {h : Handle} {s : State} {k : Res α} {v : α} {t : State} :
    owning a h s k = .done v t ↔ isLegalHandle s.cfg h ∧ s.agentOwning h = some a ∧ k = .done v t := by
  simp [owning, legalHandle_eq_done, faultUnless_eq_done]

/-- An operation is performed only for an agent it is listed for (R100). -/
theorem issuedBy_eq_done {α : Type} {a : Agent} {l : List Agent} {k : Res α} {v : α} {t : State} :
    issuedBy a l k = .done v t ↔ a ∈ l ∧ k = .done v t := faultUnless_eq_done

/-- What the model answers with a next state: the operation was performed, or it held, or it faulted (R11). -/
theorem respond_eq_next {s t : State} {r : Res Reply} :
    respond s r = .next t ↔
      (∃ v s', r = .done v s' ∧ t = s'.answer v.word) ∨
      (r = .abort .hold ∧ t = s.answer holdWord) ∨
      ∃ f, r = .abort (.fault f) ∧ t = takeFault s f := by
  rcases r with ⟨v, s'⟩ | ⟨_ | f | f | f⟩ <;> simp [respond, eq_comm]

/-! ### Buffers and storage -/

theorem bufIndex_inj {c : Config} {h h' : Handle} (l : isLegalHandle c h) (l' : isLegalHandle c h')
    (e : bufIndex h = bufIndex h') : h = h' := by
  apply BitVec.eq_of_toNat_eq
  simp only [isLegalHandle, isPoolHandle, bufIndex] at *
  split at e <;> split at e <;> omega

theorem bufIndex_lt {c : Config} {h : Handle} (l : isLegalHandle c h) : bufIndex h < 4 + c.poolSize := by
  simp only [isLegalHandle, isPoolHandle, bufIndex] at *
  split <;> omega

/-- The registers of a Buffer after those of one Buffer are written. -/
theorem State.buf_setBuf {s : State} {h h' : Handle} (b : Buf) (len : s.bufs.length = 4 + s.cfg.poolSize)
    (l : isLegalHandle s.cfg h) (l' : isLegalHandle s.cfg h') :
    (s.setBuf h b).buf h' = if h' = h then b else s.buf h' := by
  have := bufIndex_lt l
  simp only [State.buf, State.setBuf, List.getElem?_set]
  by_cases e : h' = h
  · subst e; simp [len, this]
  · rw [if_neg e, if_neg fun e' => e (bufIndex_inj l' l e'.symm)]

theorem State.buf_setBuf_same {s : State} {h : Handle} (b : Buf) (len : s.bufs.length = 4 + s.cfg.poolSize)
    (l : isLegalHandle s.cfg h) : (s.setBuf h b).buf h = b := by
  rw [buf_setBuf b len l l, if_pos rfl]

@[simp] theorem State.byteAt_setBuf (s : State) (h : Handle) (b : Buf) (h' : Handle) (i : Nat) :
    (s.setBuf h b).byteAt h' i = s.byteAt h' i := rfl

/-- `MemRead` gives the byte at an address that exists and changes nothing (R60, R64). -/
theorem memRead_eq_done {h : Handle} {i : Nat} {s t : State} {v : Byte} :
    memRead h i s = .done v t ↔ s.addrExists h i ∧ v = s.byteAt h i ∧ t = s := by
  unfold memRead; split
  · rename_i x
    rw [Res.done_eq_done, and_iff_right (a := s.addrExists h i) x]
  · simp [*]

/-- `MemWrite` stores one byte at an address that exists and changes nothing else (R60, R62). -/
theorem memWrite_eq_done {h : Handle} {i : Nat} {b : Byte} {s t : State} {u : Unit} :
    memWrite h i b s = .done u t ↔ s.addrExists h i ∧ t = { s with mem := s.mem.write (addr h i) b } := by
  unfold memWrite; split
  · rename_i x
    rw [Res.done_eq_done, and_iff_right (a := s.addrExists h i) x]
    exact and_iff_right rfl
  · simp [*]

/-- The byte at an address after `MemWrite`. -/
theorem State.byteAt_write (s : State) (h h' : Handle) (i i' : Nat) (b : Byte) :
    ({ s with mem := s.mem.write (addr h i) b } : State).byteAt h' i' =
      if h' = h ∧ i' = i then b else s.byteAt h' i' := by
  simp only [State.byteAt, Memory.read_write, addr_eq_iff]
  split <;> rfl

/-! ### The Buffer operations -/

/-- `BUF.WRITE` (R120): refused with `FULL`, or one byte stored at `put`. -/
theorem opBufWrite_eq_done {a : Agent} {h : Handle} {b : Byte} {s t : State} {r : Reply} :
    opBufWrite a h b s = .done r t ↔
      isLegalHandle s.cfg h ∧ s.agentOwning h = some a ∧
        ((¬ (s.buf h).Writable (s.cap h) ∧ r = .full ∧ t = s) ∨
          ((s.buf h).Writable (s.cap h) ∧ r = .ok 0 ∧
            t = ({ s with mem := s.mem.write (addr h (s.buf h).put) b } : State).setBuf h
              ((s.buf h).pushed (s.cap h)))) := by
  unfold opBufWrite
  rw [owning_eq_done]
  refine and_congr_right fun l => and_congr_right fun _ => ?_
  split
  · rename_i w
    simp only [Res.bind_eq_done, memWrite_eq_done, State.addrExists, l, w.2, true_and]
    constructor
    · rintro ⟨_, _, rfl, e⟩
      injection e with e1 e2
      exact .inr ⟨w, e1.symm, e2.symm⟩
    · rintro (⟨n, -⟩ | ⟨-, rfl, rfl⟩)
      · exact absurd w n
      · exact ⟨(), _, rfl, rfl⟩
  · rename_i n
    constructor
    · intro e
      injection e with e1 e2
      exact .inl ⟨n, e1.symm, e2.symm⟩
    · rintro (⟨-, rfl, rfl⟩ | ⟨w, -⟩)
      · rfl
      · exact absurd w n

/-- `BUF.PEEK` (R121): `NONE`, or the next unread byte; nothing changes. -/
theorem opBufPeek_eq_done {a : Agent} {h : Handle} {s t : State} {r : Reply} :
    opBufPeek a h s = .done r t ↔
      isLegalHandle s.cfg h ∧ s.agentOwning h = some a ∧ t = s ∧
        (((s.buf h).Empty ∧ r = .none) ∨
          (¬ (s.buf h).Empty ∧ (s.buf h).get < s.cap h ∧ r = .ok (s.byteAt h (s.buf h).get))) := by
  unfold opBufPeek
  rw [owning_eq_done]
  refine and_congr_right fun l => and_congr_right fun _ => ?_
  split
  · simp_all [eq_comm, and_comm]
  · rename_i n
    simp only [Res.bind_eq_done, memRead_eq_done, State.addrExists, l, true_and]
    constructor
    · rintro ⟨_, _, ⟨x, rfl, rfl⟩, e⟩
      injection e with e1 e2
      exact ⟨e2.symm, .inr ⟨n, x, e1.symm⟩⟩
    · rintro ⟨rfl, ⟨e, -⟩ | ⟨-, x, rfl⟩⟩
      · exact absurd e n
      · exact ⟨_, _, ⟨x, rfl, rfl⟩, rfl⟩

/-- `BUF.READ` (R122): `NONE` with nothing changed, or the next unread byte, consumed. -/
theorem opBufRead_eq_done {a : Agent} {h : Handle} {s t : State} {r : Reply} :
    opBufRead a h s = .done r t ↔
      isLegalHandle s.cfg h ∧ s.agentOwning h = some a ∧
        (((s.buf h).Empty ∧ r = .none ∧ t = s) ∨
          (¬ (s.buf h).Empty ∧ (s.buf h).get < s.cap h ∧ r = .ok (s.byteAt h (s.buf h).get) ∧
            t = s.setBuf h (s.buf h).popped)) := by
  unfold opBufRead
  rw [owning_eq_done]
  refine and_congr_right fun l => and_congr_right fun _ => ?_
  split
  · simp_all [eq_comm]
  · rename_i n
    simp only [Res.bind_eq_done, memRead_eq_done, State.addrExists, l, true_and]
    constructor
    · rintro ⟨_, _, ⟨x, rfl, rfl⟩, e⟩
      injection e with e1 e2
      exact .inr ⟨n, x, e1.symm, e2.symm⟩
    · rintro (⟨e, -⟩ | ⟨-, x, rfl, rfl⟩)
      · exact absurd e n
      · exact ⟨_, _, ⟨x, rfl, rfl⟩, rfl⟩

/-- `BUF.CLOSE` (R123): the flag only. -/
theorem opBufClose_eq_done {a : Agent} {h : Handle} {s t : State} {r : Reply} :
    opBufClose a h s = .done r t ↔
      isLegalHandle s.cfg h ∧ s.agentOwning h = some a ∧ r = .ok 0 ∧
        t = s.setBuf h { s.buf h with closed := true } := by
  simp only [opBufClose, owning_eq_done, Res.done_eq_done]

/-- `BUF.OPEN` (R124): the flag only. -/
theorem opBufOpen_eq_done {a : Agent} {h : Handle} {s t : State} {r : Reply} :
    opBufOpen a h s = .done r t ↔
      isLegalHandle s.cfg h ∧ s.agentOwning h = some a ∧ r = .ok 0 ∧
        t = s.setBuf h { s.buf h with closed := false } := by
  simp only [opBufOpen, owning_eq_done, Res.done_eq_done]

/-- `BUF.RESET` (R125): the flag and both cursors. -/
theorem opBufReset_eq_done {a : Agent} {h : Handle} {s t : State} {r : Reply} :
    opBufReset a h s = .done r t ↔
      isLegalHandle s.cfg h ∧ s.agentOwning h = some a ∧ r = .ok 0 ∧ t = s.setBuf h Buf.empty := by
  simp only [opBufReset, owning_eq_done, Res.done_eq_done]

/-! ### The DoubleBuffer operations -/

/-- `DB.SWAP` (R147): only by the swap owner, only when swappable; the selector flips and the new write buffer is
reset. -/
theorem opDbSwap_eq_done {a : Agent} {d : DbSel} {s t : State} {r : Reply} :
    opDbSwap a d s = .done r t ↔ a = swapOwner d ∧ s.Swappable d ∧ r = .ok 0 ∧ t = s.swapped d := by
  simp only [opDbSwap, issuedBy_eq_done, faultUnless_eq_done, Res.done_eq_done, List.mem_singleton]

/-- A guarded swap is always performed: it swaps when swappable and does nothing otherwise. -/
theorem swapIfReady_eq (d : DbSel) (s : State) :
    swapIfReady d s = .done () (if s.Swappable d then s.swapped d else s) := by
  unfold swapIfReady
  split
  · rename_i w
    rw [opDbSwap_eq_done.mpr ⟨rfl, w, rfl, rfl⟩]
    rfl
  · rfl

/-- `DB.PUT` (R143) is the producer's `BUF.WRITE` on the write buffer. -/
theorem opDbPut_eq_done {a : Agent} {d : DbSel} {b : Byte} {s t : State} {r : Reply} :
    opDbPut a d b s = .done r t ↔ a = producer d ∧ opBufWrite a (s.wh d) b s = .done r t := by
  simp [opDbPut, issuedBy_eq_done]

/-- `DB.TAKE` (R145) is the consumer's `BUF.READ` on the read buffer. -/
theorem opDbTake_eq_done {a : Agent} {d : DbSel} {s t : State} {r : Reply} :
    opDbTake a d s = .done r t ↔ a = consumer d ∧ opBufRead a (s.rh d) s = .done r t := by
  simp [opDbTake, issuedBy_eq_done]

/-- `DB.PEEK` (R144) is the consumer's `BUF.PEEK` on the read buffer. -/
theorem opDbPeek_eq_done {a : Agent} {d : DbSel} {s t : State} {r : Reply} :
    opDbPeek a d s = .done r t ↔ a = consumer d ∧ opBufPeek a (s.rh d) s = .done r t := by
  simp [opDbPeek, issuedBy_eq_done]

/-! ### The pool -/

/-- The index taken is one of a free Buffer, whatever the free input is (R161). -/
theorem pickFree_some {l : List Owner} {n p : Nat} (e : pickFree l n = some p) : l[p]? = some .free := by
  have := List.mem_of_getElem? e
  simpa [freeIndices] using (List.mem_filter.mp this).2

/-- There is a choice whenever a Buffer is free (R161 (c)). -/
theorem pickFree_isSome {l : List Owner} (n : Nat) (e : Owner.free ∈ l) : ∃ p, pickFree l n = some p := by
  obtain ⟨i, hi, e⟩ := List.getElem_of_mem e
  have mem : i ∈ freeIndices l := List.mem_filter.mpr ⟨List.mem_range.mpr hi, by simp [hi, e]⟩
  have pos : 0 < (freeIndices l).length := List.length_pos_of_mem mem
  exact ⟨_, List.getElem?_eq_getElem (Nat.mod_lt n pos)⟩

/-- Every free Buffer is some choice (R161 (b), U2). -/
theorem pickFree_all {l : List Owner} {p : Nat} (e : l[p]? = some .free) : ∃ n, pickFree l n = some p := by
  obtain ⟨hp, -⟩ := List.getElem?_eq_some_iff.mp e
  have mem : p ∈ freeIndices l := List.mem_filter.mpr ⟨List.mem_range.mpr hp, by simp [e]⟩
  obtain ⟨i, hi, e'⟩ := List.getElem_of_mem mem
  exact ⟨i, by simp only [pickFree, Nat.mod_eq_of_lt hi, List.getElem?_eq_getElem hi, e']⟩

/-- `POOL.ALLOC` (R161): a free Buffer leaves the pool, reset, for the Parser or the host. -/
theorem allocate_eq_done {a : Agent} {s t : State} {h : Handle} :
    allocate a s = .done h t ↔
      (a = .parser ∨ a = .host) ∧ 0 < s.avail ∧
        ∃ p, pickFree s.owner s.pick = some p ∧ h = poolHandle p ∧ t = s.allocated a p := by
  unfold allocate
  rw [issuedBy_eq_done, holdUnless_eq_done]
  cases e : pickFree s.owner s.pick <;> simp [eq_comm]

/-- `POOL.FREE` (R162): the holder gives the Buffer back. -/
theorem opPoolFree_eq_done {a : Agent} {h : Handle} {s t : State} {r : Reply} :
    opPoolFree a h s = .done r t ↔
      isPoolHandle s.cfg h ∧ ((s.ownerOf h).isSome = true ∧ s.ownerOf h = heldBy a) ∧ r = .ok 0 ∧
        t = { s.setOwner h .free with avail := s.avail + 1 } := by
  simp only [opPoolFree, faultUnless_eq_done]
  refine and_congr_right fun _ => and_congr_right fun _ => ?_
  simp [eq_comm]

/-! ### Faults, errors, the recovery scan -/

/-- Taking a fault changes its bit and the response, and nothing else (R257). -/
theorem takeFault_eq (s : State) (f : FaultName) :
    takeFault s f = { s with fault := s.fault ||| f.mask, rsp := s.rsp.set s.port f.word } := rfl

/-- An error report is made only while `ERRQ` has room; the code goes to its end (R244). -/
theorem raiseProtocolError_eq_done {α : Type} {e : ProtocolError} {s : State} {k : State → Res α} {v : α} {t : State} :
    raiseProtocolError e s k = .done v t ↔
      s.errq.length < s.cfg.errqDepth ∧ k { s with errq := s.errq ++ [e.code] } = .done v t := holdUnless_eq_done

/-- The scan's index never passes `K` (R199). -/
theorem scanIndex_le {c : Config} {i : Nat} {b : Byte} (hk : 1 ≤ c.k) : scanIndex c i b ≤ c.k := by
  unfold scanIndex
  split
  · rename_i e
    exact (List.getElem?_eq_some_iff.mp e).1
  · split
    · exact hk
    · exact Nat.zero_le _

/-- The scan writes `pstate`, and `pacc` on a full match (R199). -/
theorem scan_eq (i : Nat) (b : Byte) (s : State) :
    scan i b s = { s with
      pacc := if scanIndex s.cfg i b = s.cfg.k then pXor s.cfg else s.pacc
      pstate := if scanIndex s.cfg i b = s.cfg.k then .readLength else .errorRecovery (scanIndex s.cfg i b) } := by
  unfold scan; split <;> rfl

/-- Entry to recovery writes `pacc` and `pstate` (R201). -/
theorem enterRecovery_eq (b : Byte) (s : State) :
    enterRecovery b s = { s with
      pacc := if scanIndex s.cfg 0 b = s.cfg.k then pXor s.cfg else 0
      pstate := if scanIndex s.cfg 0 b = s.cfg.k then .readLength else .errorRecovery (scanIndex s.cfg 0 b) } := by
  unfold enterRecovery; rw [scan_eq]

/-! ### Responses -/

@[simp] theorem RspPorts.get_set_same (r : RspPorts) (a : Agent) (w : RspWord) : (r.set a w).get a = w := by
  cases a <;> rfl

theorem RspPorts.get_set_other (r : RspPorts) {a a' : Agent} (w : RspWord) (ne : a' ≠ a) :
    (r.set a w).get a' = r.get a' := by
  cases a <;> cases a' <;> first | rfl | exact absurd rfl ne

end Sys2Proof.Machine
end

