-- ==== Sys2Proof/Laws/Invariant.lean ====
section
/-! SUPPORT. A test for each invariant that evaluates on a given state, and that it is right: with it a concrete state
is shown to meet `State.Inv` or `State.Designed` by evaluation. -/

namespace Sys2Proof.Machine

/-- The handles that name a Buffer (R104). -/
def legalHandles (c : Config) : List Handle := [0x00, 0x01, 0x02, 0x03] ++ (List.range c.poolSize).map poolHandle

theorem poolHandle_poolIndex {c : Config} {h : Handle} (l : isPoolHandle c h) : poolHandle (poolIndex h) = h := by
  apply BitVec.eq_of_toNat_eq
  have := h.isLt
  simp only [poolHandle, poolIndex, BitVec.toNat_ofNat, isPoolHandle] at *
  omega

theorem mem_poolHandles {c : Config} {h : Handle} (l : isPoolHandle c h) :
    h ∈ (List.range c.poolSize).map poolHandle := by
  refine List.mem_map.mpr ⟨poolIndex h, List.mem_range.mpr ?_, poolHandle_poolIndex l⟩
  simp only [poolIndex, isPoolHandle] at *
  omega

theorem mem_legalHandles {c : Config} {h : Handle} (l : isLegalHandle c h) : h ∈ legalHandles c := by
  rcases l with l | l
  · refine List.mem_append_left _ ?_
    have : h = 0x00 ∨ h = 0x01 ∨ h = 0x02 ∨ h = 0x03 := by
      have e : h.toNat = 0 ∨ h.toNat = 1 ∨ h.toNat = 2 ∨ h.toNat = 3 := by omega
      rcases e with e | e | e | e <;> simp [← BitVec.toNat_inj, e]
    simpa using this
  · exact List.mem_append_right _ (mem_poolHandles l)

/-- `QueueFits`, evaluated. -/
def queueFitsCheck (c : Config) (owners : List Owner) (q : List Handle) (o : Owner) : Bool :=
  decide q.Nodup && q.all (fun h => decide (isPoolHandle c h ∧ owners[poolIndex h]? = some o)) &&
    ((List.range c.poolSize).map poolHandle).all fun h => decide (owners[poolIndex h]? = some o → h ∈ q)

theorem queueFits_of_check {c : Config} {owners : List Owner} {q : List Handle} {o : Owner}
    (e : queueFitsCheck c owners q o = true) : QueueFits c owners q o := by
  simp only [queueFitsCheck, Bool.and_eq_true, decide_eq_true_eq, List.all_eq_true] at e
  exact ⟨e.1.1, e.1.2, fun h l => e.2 h (mem_poolHandles l)⟩

/-- `PState.InRange` and `PaccFits`, evaluated. -/
def parserCheck (c : Config) (acc : Byte) : PState → Bool
  | .seekPreamble i => decide (i < c.k) && decide (acc = xorAll (c.pre.take i))
  | .readLength => decide (acc = pXor c)
  | .readPayload r => decide (1 ≤ r ∧ r ≤ 254 - c.k)
  | .errorRecovery i => decide (i < c.k)

/-- `FState.InRange` and `FaccFits`, evaluated. -/
def framerCheck (c : Config) (acc : Byte) : FState → Bool
  | .idle => decide (acc = 0)
  | .preamble i => decide (i < c.k) && decide (acc = xorAll (c.pre.take i))
  | .payload => true
  | .checksum => true

/-- The valid bit of `pcur` (R32), evaluated. -/
def pcurCheck (pcur : Option Handle) : PState → Bool
  | .seekPreamble _ => pcur.isNone
  | .readLength => pcur.isNone
  | .readPayload _ => pcur.isSome
  | .errorRecovery _ => pcur.isNone

theorem parserCheck_right {c : Config} {acc : Byte} {p : PState} (e : parserCheck c acc p = true) :
    p.InRange c ∧ PaccFits c acc p := by
  cases p <;> simp_all [parserCheck, PState.InRange, PaccFits]

theorem framerCheck_right {c : Config} {acc : Byte} {f : FState} (e : framerCheck c acc f = true) :
    f.InRange c ∧ FaccFits c acc f := by
  cases f <;> simp_all [framerCheck, FState.InRange, FaccFits]

theorem pcurCheck_right {pcur : Option Handle} {p : PState} (e : pcurCheck pcur p = true) :
    pcur.isSome = true ↔ ∃ r, p = .readPayload r := by
  cases p <;> simp_all [pcurCheck]

/-- `State.Inv`, evaluated. -/
def invCheck (s : State) : Bool :=
  decide s.cfg.Valid && decide (s.bufs.length = 4 + s.cfg.poolSize) &&
  (legalHandles s.cfg).all (fun h => decide ((s.buf h).get ≤ (s.buf h).put ∧ (s.buf h).put ≤ s.cap h) &&
    (List.range (s.buf h).put).all fun i => (s.mem.read (addr h i)).isSome) &&
  s.mem.wf && s.mem.all (fun c => decide (s.addrExists (BitVec.ofNat 8 (c.1 % 256)) (c.1 / 256))) &&
  decide (s.owner.length = s.cfg.poolSize) && decide (s.avail = s.owner.count .free) &&
  parserCheck s.cfg s.pacc s.pstate && pcurCheck s.pcur s.pstate &&
  s.pcur.all (fun h => decide (isPoolHandle s.cfg h)) &&
  framerCheck s.cfg s.facc s.fstate && decide (s.fcur.isSome = true ↔ s.fstate ≠ .idle) &&
  s.fcur.all (fun h => decide (isPoolHandle s.cfg h)) &&
  queueFitsCheck s.cfg s.owner s.qOut .inQOut && queueFitsCheck s.cfg s.owner s.qIn .inQIn &&
  decide (s.errq.length ≤ s.cfg.errqDepth) && s.errq.all fun b => decide (IsErrorCode s.cfg b)

/-- The test for `State.Inv` is right. -/
theorem inv_of_check {s : State} (e : invCheck s = true) : s.Inv := by
  simp only [invCheck, Bool.and_eq_true, decide_eq_true_eq, List.all_eq_true] at e
  obtain ⟨⟨⟨⟨⟨⟨⟨⟨⟨⟨⟨⟨⟨⟨⟨⟨valid, count⟩, bufs⟩, wf⟩, inside⟩, owners⟩, avail⟩, par⟩, pcur⟩, pcurPool⟩, frm⟩, fcur⟩,
    fcurPool⟩, qOut⟩, qIn⟩, depth⟩, codes⟩ := e
  refine
    { cfgValid := valid, bufCount := count, memCanonical := wf, ownerCount := owners, availCounts := avail,
      pstateRange := (parserCheck_right par).1, paccFits := (parserCheck_right par).2,
      fstateRange := (framerCheck_right frm).1, faccFits := (framerCheck_right frm).2,
      pcurValid := pcurCheck_right pcur, fcurValid := fcur,
      qOutFits := queueFits_of_check qOut, qInFits := queueFits_of_check qIn,
      errqDepth := depth, errqCodes := codes,
      cursors := fun h l => (bufs h (mem_legalHandles l)).1,
      written := fun h i l lt => (bufs h (mem_legalHandles l)).2 i (List.mem_range.mpr lt),
      memInside := ?_, pcurPool := ?_, fcurPool := ?_ }
  · intro c hc
    refine ⟨_, _, inside c hc, ?_⟩
    simp only [addr, BitVec.toNat_ofNat]
    omega
  · intro h eq; simpa [eq] using pcurPool
  · intro h eq; simpa [eq] using fcurPool

/-- `PairFits`, evaluated. -/
def pairCheck (s : State) (d : DbSel) : Bool :=
  (if (s.buf (s.rh d)).closed then decide (¬ (s.buf (s.rh d)).Empty) else decide (s.buf (s.rh d)).Empty) &&
  (if (s.buf (s.wh d)).closed then decide (0 < (s.buf (s.wh d)).put)
    else decide ((s.buf (s.wh d)).put < s.cap (s.wh d))) &&
  decide ((s.buf (s.wh d)).get = 0)

theorem pairFits_of_check {s : State} {d : DbSel} (e : pairCheck s d = true) : PairFits s d := by
  simp only [pairCheck, Bool.and_eq_true, decide_eq_true_eq] at e
  obtain ⟨⟨r, w⟩, u⟩ := e
  constructor
  · intro h; simpa [h] using r
  · intro h; simpa [h] using r
  · intro h; simpa [h] using w
  · intro h; simpa [h] using w
  · exact u

/-- `FillFits` of what the Parser fills, evaluated. -/
def fillCheck (s : State) : Bool :=
  match s.pstate, s.pcur with
  | .readPayload r, some h =>
    decide ((s.buf h).get = 0) && decide ((s.buf h).closed = true ↔ (s.buf h).put = s.cfg.poolCap) &&
      decide ((s.buf h).put + r ≤ 255 - s.cfg.k)
  | _, _ => true

/-- `State.Designed`, evaluated. -/
def designedCheck (s : State) : Bool :=
  pairCheck s .ing && pairCheck s .egr && fillCheck s &&
  s.qOut.all (fun h => (s.buf h).closed && decide ((s.buf h).get = 0)) && s.qIn.all (fun h => (s.buf h).closed) &&
  s.pcur.all (fun h => decide (s.ownerOf h = some .heldParser)) &&
  s.fcur.all (fun h => decide (s.ownerOf h = some .heldFramer) &&
    decide (s.fstate = .payload → ¬ (s.buf h).Empty))

/-- The test for `State.Designed` is right. -/
theorem designed_of_check {s : State} (e : designedCheck s = true) : s.Designed := by
  simp only [designedCheck, Bool.and_eq_true, decide_eq_true_eq, List.all_eq_true] at e
  obtain ⟨⟨⟨⟨⟨⟨ing, egr⟩, fill⟩, qOut⟩, qIn⟩, pcur⟩, fcur⟩ := e
  refine
    { ing := pairFits_of_check ing, egr := pairFits_of_check egr, qOutClosed := qOut, qInClosed := qIn,
      fillFits := ?_, pcurHeld := ?_, fcurHeld := ?_, payloadHolds := ?_ }
  · intro r h e1 e2
    simp only [fillCheck, e1, e2, Bool.and_eq_true, decide_eq_true_eq] at fill
    exact ⟨fill.1.1, fill.1.2, fill.2⟩
  · intro h eq; simpa [eq] using pcur
  · intro h eq
    simp only [eq, Option.all_some, Bool.and_eq_true, decide_eq_true_eq] at fcur
    exact fcur.1
  · intro p h eq
    simp only [eq, Option.all_some, Bool.and_eq_true, decide_eq_true_eq] at fcur
    exact fcur.2 p

end Sys2Proof.Machine
end

