-- ==== Sys2Proof/Laws/PerInstr.lean ====
section
/-! SUPPORT. A law for each operation: its command word agrees with its row of spec/opcode_table.json. -/

namespace Sys2Proof.Laws.EncodingInTable

/-- The mask and the match of an operation's row in spec/opcode_table.json. -/
def row : Instr → CmdWord × CmdWord
  | .bufWrite _ _ => (0xFF0000, 0x010000)
  | .bufPeek _ => (0xFF00FF, 0x020000)
  | .bufRead _ => (0xFF00FF, 0x030000)
  | .bufClose _ => (0xFF00FF, 0x040000)
  | .bufOpen _ => (0xFF00FF, 0x050000)
  | .bufReset _ => (0xFF00FF, 0x060000)
  | .bufIsclosed _ => (0xFF00FF, 0x070000)
  | .bufIsempty _ => (0xFF00FF, 0x080000)
  | .dbWhandle _ => (0xFFFEFF, 0x100000)
  | .dbRhandle _ => (0xFFFEFF, 0x110000)
  | .dbPut _ _ => (0xFFFE00, 0x120000)
  | .dbPeek _ => (0xFFFEFF, 0x130000)
  | .dbTake _ => (0xFFFEFF, 0x140000)
  | .dbSwappable _ => (0xFFFEFF, 0x150000)
  | .dbSwap _ => (0xFFFEFF, 0x160000)
  | .poolAlloc => (0xFFFFFF, 0x200000)
  | .poolFree _ => (0xFF00FF, 0x210000)
  | .trNext => (0xFFFFFF, 0x300000)
  | .trPutb _ => (0xFFFF00, 0x310000)
  | .trFlush => (0xFFFFFF, 0x320000)
  | .trRxbyte _ => (0xFFFF00, 0x330000)
  | .trRxtmo => (0xFFFFFF, 0x340000)
  | .trTxbyte => (0xFFFFFF, 0x350000)
  | .parFetch => (0xFFFFFF, 0x400000)
  | .parExec => (0xFFFFFF, 0x410000)
  | .frmStep => (0xFFFFFF, 0x500000)
  | .frmPost _ => (0xFF00FF, 0x510000)
  | .outPop => (0xFFFFFF, 0x600000)
  | .errPop => (0xFFFFFF, 0x610000)
  | .sysReset => (0xFFFFFF, 0x700000)

/-- The word of the operation has the row's match under the row's mask. -/
def Statement (i : Instr) : Prop := encode i &&& (row i).1 = (row i).2

theorem wordOf_and (op a1 a0 op' a1' a0' : Byte) :
    wordOf op a1 a0 &&& wordOf op' a1' a0' = wordOf (op &&& op') (a1 &&& a1') (a0 &&& a0') := by
  simp only [wordOf, ← BitVec.and_append]

theorem byte_and_all (b : Byte) : b &&& 0xFF = b := by
  simpa using BitVec.and_allOnes (x := b)

theorem byte_and_zero (b : Byte) : b &&& 0x00 = 0 := BitVec.and_zero

theorem select_and_high (d : DbSel) : Machine.selByte d &&& 0xFE = 0 := by cases d <;> rfl

theorem word_handleByte (op a1 a0 : Byte) : wordOf op a1 a0 &&& 0xFF0000 = wordOf op 0 0 := by
  show _ &&& wordOf 0xFF 0x00 0x00 = _
  rw [wordOf_and, byte_and_all, byte_and_zero, byte_and_zero]

theorem word_handle (op a1 : Byte) : wordOf op a1 0 &&& 0xFF00FF = wordOf op 0 0 := by
  show _ &&& wordOf 0xFF 0x00 0xFF = _
  rw [wordOf_and, byte_and_all, byte_and_zero, byte_and_all]

theorem word_select (op : Byte) (d : DbSel) : wordOf op (Machine.selByte d) 0 &&& 0xFFFEFF = wordOf op 0 0 := by
  show _ &&& wordOf 0xFF 0xFE 0xFF = _
  rw [wordOf_and, byte_and_all, select_and_high, byte_and_all]

theorem word_selectByte (op : Byte) (d : DbSel) (a0 : Byte) :
    wordOf op (Machine.selByte d) a0 &&& 0xFFFE00 = wordOf op 0 0 := by
  show _ &&& wordOf 0xFF 0xFE 0x00 = _
  rw [wordOf_and, byte_and_all, select_and_high, byte_and_zero]

theorem word_byte (op a0 : Byte) : wordOf op 0 a0 &&& 0xFFFF00 = wordOf op 0 0 := by
  show _ &&& wordOf 0xFF 0xFF 0x00 = _
  rw [wordOf_and, byte_and_all, byte_and_all, byte_and_zero]

theorem bufWrite (h : Handle) (b : Byte) : Statement (.bufWrite h b) := (word_handleByte 0x01 h b).trans rfl
theorem bufPeek (h : Handle) : Statement (.bufPeek h) := (word_handle 0x02 h).trans rfl
theorem bufRead (h : Handle) : Statement (.bufRead h) := (word_handle 0x03 h).trans rfl
theorem bufClose (h : Handle) : Statement (.bufClose h) := (word_handle 0x04 h).trans rfl
theorem bufOpen (h : Handle) : Statement (.bufOpen h) := (word_handle 0x05 h).trans rfl
theorem bufReset (h : Handle) : Statement (.bufReset h) := (word_handle 0x06 h).trans rfl
theorem bufIsclosed (h : Handle) : Statement (.bufIsclosed h) := (word_handle 0x07 h).trans rfl
theorem bufIsempty (h : Handle) : Statement (.bufIsempty h) := (word_handle 0x08 h).trans rfl
theorem dbWhandle (d : DbSel) : Statement (.dbWhandle d) := (word_select 0x10 d).trans rfl
theorem dbRhandle (d : DbSel) : Statement (.dbRhandle d) := (word_select 0x11 d).trans rfl
theorem dbPut (d : DbSel) (b : Byte) : Statement (.dbPut d b) := (word_selectByte 0x12 d b).trans rfl
theorem dbPeek (d : DbSel) : Statement (.dbPeek d) := (word_select 0x13 d).trans rfl
theorem dbTake (d : DbSel) : Statement (.dbTake d) := (word_select 0x14 d).trans rfl
theorem dbSwappable (d : DbSel) : Statement (.dbSwappable d) := (word_select 0x15 d).trans rfl
theorem dbSwap (d : DbSel) : Statement (.dbSwap d) := (word_select 0x16 d).trans rfl
theorem poolAlloc : Statement .poolAlloc := rfl
theorem poolFree (h : Handle) : Statement (.poolFree h) := (word_handle 0x21 h).trans rfl
theorem trNext : Statement .trNext := rfl
theorem trPutb (b : Byte) : Statement (.trPutb b) := (word_byte 0x31 b).trans rfl
theorem trFlush : Statement .trFlush := rfl
theorem trRxbyte (b : Byte) : Statement (.trRxbyte b) := (word_byte 0x33 b).trans rfl
theorem trRxtmo : Statement .trRxtmo := rfl
theorem trTxbyte : Statement .trTxbyte := rfl
theorem parFetch : Statement .parFetch := rfl
theorem parExec : Statement .parExec := rfl
theorem frmStep : Statement .frmStep := rfl
theorem frmPost (h : Handle) : Statement (.frmPost h) := (word_handle 0x51 h).trans rfl
theorem outPop : Statement .outPop := rfl
theorem errPop : Statement .errPop := rfl
theorem sysReset : Statement .sysReset := rfl

end Sys2Proof.Laws.EncodingInTable
end

