-- ==== Sys2Proof/Laws/Transport.lean ====
section
/-! SUPPORT. The two slots of a pair, what a swap leaves, and for each composite operation that others are built from
one lemma that says everything it can do when it is performed. -/

namespace Sys2Proof.Machine

/-! ### The slots of a pair -/

theorem slotHandle_lt (d : DbSel) (a : Bool) : (slotHandle d a).toNat < 4 := by cases d <;> cases a <;> decide

theorem State.wh_legal (s : State) (d : DbSel) : isLegalHandle s.cfg (s.wh d) := .inl (slotHandle_lt _ _)

theorem State.rh_legal (s : State) (d : DbSel) : isLegalHandle s.cfg (s.rh d) := .inl (slotHandle_lt _ _)

theorem State.wh_ne_rh (s : State) (d : DbSel) : s.wh d ≠ s.rh d := by
  unfold State.wh State.rh
  cases d <;> cases s.aw _ <;> decide

/-- The write buffer is the producer's (R256). -/
theorem State.agentOwning_wh (s : State) (d : DbSel) : s.agentOwning (s.wh d) = some (producer d) := by
  unfold State.agentOwning State.wh State.rh State.aw
  cases d <;> cases s.awIng <;> cases s.awEgr <;> rfl

/-- The read buffer is the consumer's (R256). -/
theorem State.agentOwning_rh (s : State) (d : DbSel) : s.agentOwning (s.rh d) = some (consumer d) := by
  unfold State.agentOwning State.wh State.rh State.aw
  cases d <;> cases s.awIng <;> cases s.awEgr <;> rfl

/-! ### After a swap -/

@[simp] theorem State.swapped_aw (s : State) (d : DbSel) : (s.swapped d).aw d = !s.aw d := by cases d <;> rfl

theorem State.swapped_aw_other (s : State) {d d' : DbSel} (ne : d' ≠ d) : (s.swapped d).aw d' = s.aw d' := by
  cases d <;> cases d' <;> first | rfl | exact absurd rfl ne

/-- The registers of a Buffer after a swap: the new write buffer is reset, every other Buffer is as it was (R147). -/
theorem State.buf_swapped {s : State} {d : DbSel} {h : Handle} (len : s.bufs.length = 4 + s.cfg.poolSize)
    (l : isLegalHandle s.cfg h) : (s.swapped d).buf h = if h = s.rh d then Buf.empty else s.buf h := by
  have e := State.buf_setBuf (s := s.flipAw d) (h := s.rh d) (h' := h) Buf.empty (by cases d <;> exact len)
    (by cases d <;> exact rh_legal s _) (by cases d <;> exact l)
  unfold State.swapped
  rw [e]
  split <;> cases d <;> rfl

/-! ### The composite operations -/

/-- A swap where one is possible. -/
theorem swapIfReady_swappedIf (d : DbSel) (s : State) : swapIfReady d s = .done () (s.swappedIf d) := swapIfReady_eq d s

/-- What `TR.RXTMO` and `TR.FLUSH` perform (R175, R176). -/
theorem closeAndSwap_eq (d : DbSel) (s : State) : closeAndSwap d s = .done (.ok 0) (s.pushedOut d) := by
  unfold closeAndSwap State.pushedOut
  split
  · rw [opBufClose_eq_done.mpr ⟨s.wh_legal d, s.agentOwning_wh d, rfl, rfl⟩]
    simp only [Res.bind_done, swapIfReady_swappedIf]
  · simp only [Res.bind_done, swapIfReady_swappedIf]

/-- `TR.NEXT` (R172): the Parser's take, when there is a byte. -/
theorem opTrNext_eq_done {a : Agent} {s t : State} {r : Reply} :
    opTrNext a s = .done r t ↔ a = .parser ∧ ¬ (s.buf (s.rh .ing)).Empty ∧ opBufRead a (s.rh .ing) s = .done r t := by
  simp only [opTrNext, issuedBy_eq_done, holdUnless_eq_done, opDbTake_eq_done, List.mem_singleton, consumer]
  tauto

/-- `TR.PUTB` (R173): a swap that was waiting, the put, a swap where one is possible. -/
theorem opTrPutb_eq_done {a : Agent} {b : Byte} {s t : State} {r : Reply} :
    opTrPutb a b s = .done r t ↔
      a = .framer ∧ s.CanSend ∧ r = .ok 0 ∧
        ∃ r' s', opDbPut .framer .egr b (s.readyToPut .egr) = .done r' s' ∧ t = s'.swappedIf .egr := by
  simp only [opTrPutb, issuedBy_eq_done, holdUnless_eq_done, List.mem_singleton]
  refine and_congr_right fun ha => and_congr_right fun can => ?_
  subst ha
  have first : (if (s.buf (s.wh .egr)).closed = true then (opDbSwap .framer .egr s).bind fun _ s1 => .done () s1
      else .done () s) = Res.done () (s.readyToPut .egr) := by
    unfold State.readyToPut
    split
    · rename_i c
      have ready : s.Swappable .egr := can.resolve_left (by simp [c])
      rw [(opDbSwap_eq_done (a := .framer)).mpr ⟨rfl, ready, rfl, rfl⟩]
      rfl
    · rfl
  rw [first, Res.bind_done, Res.bind_eq_done]
  simp only [swapIfReady_swappedIf, Res.bind_done, Res.done_eq_done]
  exact ⟨fun ⟨r', s', e, hr, ht⟩ => ⟨hr, r', s', e, ht⟩, fun ⟨hr, r', s', e, ht⟩ => ⟨r', s', e, hr, ht⟩⟩

/-- `TR.RXBYTE` (R174): with room, a swap that was waiting, the put, a swap where one is possible. -/
theorem opTrRxbyte_eq_done {a : Agent} {b : Byte} {s t : State} {r : Reply} :
    opTrRxbyte a b s = .done r t ↔
      a = .rx ∧ ((s.buf (s.wh .ing)).closed = true → s.Swappable .ing) ∧ r = .ok 0 ∧
        ∃ r' s', opDbPut .rx .ing b (s.readyToPut .ing) = .done r' s' ∧ t = s'.swappedIf .ing := by
  simp only [opTrRxbyte, issuedBy_eq_done, List.mem_singleton]
  refine and_congr_right fun ha => ?_
  subst ha
  by_cases c : (s.buf (s.wh .ing)).closed = true
  · by_cases ready : s.Swappable .ing
    · rw [if_pos c, faultUnless, if_pos ready, (opDbSwap_eq_done (a := .rx)).mpr ⟨rfl, ready, rfl, rfl⟩]
      simp only [Res.bind_done, Res.bind_eq_done, swapIfReady_swappedIf, Res.done_eq_done, State.readyToPut, if_pos c]
      exact ⟨fun ⟨r', s', e, hr, ht⟩ => ⟨fun _ => ready, hr, r', s', e, ht⟩,
        fun ⟨_, hr, r', s', e, ht⟩ => ⟨r', s', e, hr, ht⟩⟩
    · rw [if_pos c, faultUnless, if_neg ready]
      exact ⟨fun e => by simp at e, fun e => absurd (e.1 c) ready⟩
  · rw [if_neg c]
    simp only [Res.bind_done, Res.bind_eq_done, swapIfReady_swappedIf, Res.done_eq_done, State.readyToPut, if_neg c]
    exact ⟨fun ⟨r', s', e, hr, ht⟩ => ⟨fun x => absurd x c, hr, r', s', e, ht⟩,
      fun ⟨_, hr, r', s', e, ht⟩ => ⟨r', s', e, hr, ht⟩⟩

/-- The Parser's store (R195 to R197): performed only where the write is not refused. -/
theorem storeByte_eq_done {h : Handle} {b : Byte} {s t : State} {u : Unit} :
    storeByte h b s = .done u t ↔
      isLegalHandle s.cfg h ∧ s.agentOwning h = some .parser ∧ (s.buf h).Writable (s.cap h) ∧ t = s.stored h b := by
  simp only [storeByte, Res.bind_eq_done, faultUnless_eq_done, Res.done_eq_done, opBufWrite_eq_done]
  constructor
  · rintro ⟨r, s', ⟨l, o, ⟨-, rfl, -⟩ | ⟨w, -, rfl⟩⟩, ne, -, rfl⟩
    · exact absurd rfl ne
    · exact ⟨l, o, w, rfl⟩
  · rintro ⟨l, o, w, rfl⟩
    exact ⟨.ok 0, _, ⟨l, o, .inr ⟨w, rfl, rfl⟩⟩, by simp, trivial, rfl⟩

/-- The Framer's send (R222, R223): `TR.PUTB`, the byte counted, the next state. -/
theorem sendAndCount_eq_done {b : Byte} {next : State → FState} {s t : State} {u : Unit} :
    sendAndCount b next s = .done u t ↔
      ∃ r s', opTrPutb .framer b s = .done r s' ∧ t = { s' with facc := s'.facc ^^^ b, fstate := next s' } := by
  simp only [sendAndCount, Res.bind_eq_done, Res.done_eq_done]
  exact ⟨fun ⟨r, s', e, _, ht⟩ => ⟨r, s', e, ht⟩, fun ⟨r, s', e, ht⟩ => ⟨r, s', e, trivial, ht⟩⟩

end Sys2Proof.Machine
end

