-- ==== Sys2Proof/Machine/Trace.lean ====
section
/-! DEFINITION. The trace syntax of R111: an agent, an operation with its operands, its command word and its outcome. -/

namespace Sys2Proof.Machine

/-- A hexadecimal digit. -/
def hexDigit (n : Nat) : String := (["0", "1", "2", "3", "4", "5", "6", "7", "8", "9", "A", "B", "C", "D", "E", "F"])[n]?.getD ""

/-- `n` as `digits` hexadecimal digits. -/
def hexDigits : Nat → Nat → String
  | 0, _ => ""
  | digits + 1, n => hexDigits digits (n / 16) ++ hexDigit (n % 16)

/-- A byte in hexadecimal with `0x`. -/
def byteText (b : Byte) : String := "0x" ++ hexDigits 2 b.toNat

/-- A command word in hexadecimal with `0x`. -/
def wordText (w : CmdWord) : String := "0x" ++ hexDigits 6 w.toNat

/-- The name of an agent (R10). -/
def Agent.text : Agent → String
  | .rx => "A_RX"
  | .parser => "A_PARSER"
  | .framer => "A_FRAMER"
  | .tx => "A_TX"
  | .host => "A_HOST"

/-- The name of a DoubleBuffer (R105). -/
def selText : DbSel → String
  | .ing => "ING"
  | .egr => "EGR"

/-- An operation with its operands (R100, R111). -/
def instrText : Instr → String
  | .bufWrite h b => "BUF.WRITE " ++ byteText h ++ ", " ++ byteText b
  | .bufPeek h => "BUF.PEEK " ++ byteText h
  | .bufRead h => "BUF.READ " ++ byteText h
  | .bufClose h => "BUF.CLOSE " ++ byteText h
  | .bufOpen h => "BUF.OPEN " ++ byteText h
  | .bufReset h => "BUF.RESET " ++ byteText h
  | .bufIsclosed h => "BUF.ISCLOSED " ++ byteText h
  | .bufIsempty h => "BUF.ISEMPTY " ++ byteText h
  | .dbWhandle d => "DB.WHANDLE " ++ selText d
  | .dbRhandle d => "DB.RHANDLE " ++ selText d
  | .dbPut d b => "DB.PUT " ++ selText d ++ ", " ++ byteText b
  | .dbPeek d => "DB.PEEK " ++ selText d
  | .dbTake d => "DB.TAKE " ++ selText d
  | .dbSwappable d => "DB.SWAPPABLE " ++ selText d
  | .dbSwap d => "DB.SWAP " ++ selText d
  | .poolAlloc => "POOL.ALLOC"
  | .poolFree h => "POOL.FREE " ++ byteText h
  | .trNext => "TR.NEXT"
  | .trPutb b => "TR.PUTB " ++ byteText b
  | .trFlush => "TR.FLUSH"
  | .trRxbyte b => "TR.RXBYTE " ++ byteText b
  | .trRxtmo => "TR.RXTMO"
  | .trTxbyte => "TR.TXBYTE"
  | .parFetch => "PAR.FETCH"
  | .parExec => "PAR.EXEC"
  | .frmStep => "FRM.STEP"
  | .frmPost h => "FRM.POST " ++ byteText h
  | .outPop => "OUT.POP"
  | .errPop => "ERR.POP"
  | .sysReset => "SYS.RESET"

/-- The operations whose `OK` carries a result: the last column of R106. -/
def hasResult : Instr → Bool
  | .bufPeek _ => true
  | .bufRead _ => true
  | .bufIsclosed _ => true
  | .bufIsempty _ => true
  | .dbWhandle _ => true
  | .dbRhandle _ => true
  | .dbPeek _ => true
  | .dbTake _ => true
  | .dbSwappable _ => true
  | .poolAlloc => true
  | .trNext => true
  | .trTxbyte => true
  | .outPop => true
  | .errPop => true
  | .bufWrite _ _ => false
  | .bufClose _ => false
  | .bufOpen _ => false
  | .bufReset _ => false
  | .dbPut _ _ => false
  | .dbSwap _ => false
  | .poolFree _ => false
  | .trPutb _ => false
  | .trFlush => false
  | .trRxbyte _ => false
  | .trRxtmo => false
  | .parFetch => false
  | .parExec => false
  | .frmStep => false
  | .frmPost _ => false
  | .sysReset => false

/-- The name of the fault a `FAULT` response carries the bit number of (R44, R102). -/
def faultText (bit : Byte) : String :=
  (["F_SWAP", "F_RX_OVERRUN", "F_PAYLOAD_OVERFLOW", "F_OWNERSHIP", "F_POST_OPEN", "F_RESERVED"])[bit.toNat]?.getD ""

/-- A response word as the outcome it stands for (R11, R102). -/
def outcomeText (i : Instr) (w : RspWord) : String :=
  let value : Byte := w.extractLsb' 0 8
  match (w.extractLsb' 8 8 : Byte).toNat with
  | 0x00 => if hasResult i then "OK(" ++ byteText value ++ ")" else "OK"
  | 0x01 => "NONE"
  | 0x02 => "FULL"
  | 0x03 => "HOLD"
  | 0xFF => "FAULT(" ++ faultText value ++ ")"
  | _ => ""

/-- The trace line of an operation served on the state `s`, when the model goes on (R111). -/
def traceLine (i : Instr) (s : State) : Option String :=
  match exec i s with
  | .next t =>
    some (s.port.text ++ ": " ++ instrText i ++ " ; " ++ wordText (encode i) ++ " -> " ++
      outcomeText i (t.rsp.get s.port))
  | .fault _ => none
  | .refused _ => none

end Sys2Proof.Machine
end

