-- ==== Sys2Proof/Tests/Slice0.lean ====
section
/-! SUPPORT. Tests and witnesses. A test's expected value is the spec's: the vector or the rule's example it names. A
witness shows a concrete state and operands that meet the hypotheses of a statement, clause by clause. -/

namespace Sys2Proof.Tests

open Sys2Proof Sys2Proof.Machine

/-! ### Well-formed operations (R104, R108) -/

theorem test_wellFormed_first_pool_handle : (Instr.bufWrite 0x10 0x09).WellFormed Config.ref := .inr (by decide)

theorem test_wellFormed_last_pool_handle : (Instr.bufPeek 0x13).WellFormed Config.ref := .inr (by decide)

theorem test_illFormed_bufWrite_reserved : ¬ (Instr.bufWrite 0x04 0x09).WellFormed Config.ref := by
  show ¬ isLegalHandle Config.ref 0x04; decide

theorem test_illFormed_bufWrite_past_pool : ¬ (Instr.bufWrite 0x14 0x09).WellFormed Config.ref := by
  show ¬ isLegalHandle Config.ref 0x14; decide

theorem test_illFormed_bufPeek : ¬ (Instr.bufPeek 0x0F).WellFormed Config.ref := by
  show ¬ isLegalHandle Config.ref 0x0F; decide

theorem test_illFormed_bufRead : ¬ (Instr.bufRead 0xFF).WellFormed Config.ref := by
  show ¬ isLegalHandle Config.ref 0xFF; decide

theorem test_illFormed_bufClose : ¬ (Instr.bufClose 0x04).WellFormed Config.ref := by
  show ¬ isLegalHandle Config.ref 0x04; decide

theorem test_illFormed_bufOpen : ¬ (Instr.bufOpen 0x14).WellFormed Config.ref := by
  show ¬ isLegalHandle Config.ref 0x14; decide

theorem test_illFormed_bufReset : ¬ (Instr.bufReset 0x04).WellFormed Config.ref := by
  show ¬ isLegalHandle Config.ref 0x04; decide

theorem test_illFormed_bufIsclosed : ¬ (Instr.bufIsclosed 0x14).WellFormed Config.ref := by
  show ¬ isLegalHandle Config.ref 0x14; decide

theorem test_illFormed_bufIsempty : ¬ (Instr.bufIsempty 0x04).WellFormed Config.ref := by
  show ¬ isLegalHandle Config.ref 0x04; decide

theorem test_illFormed_poolFree : ¬ (Instr.poolFree 0x14).WellFormed Config.ref := by
  show ¬ isLegalHandle Config.ref 0x14; decide

theorem test_illFormed_frmPost : ¬ (Instr.frmPost 0x04).WellFormed Config.ref := by
  show ¬ isLegalHandle Config.ref 0x04; decide

/-! ### Command words of V-ENC-1, written out from R106 -/

theorem test_decode_bufWrite : decode Config.ref 0x011009 = .ok (.bufWrite 0x10 0x09) := rfl
theorem test_decode_bufPeek : decode Config.ref 0x021000 = .ok (.bufPeek 0x10) := rfl
theorem test_decode_bufRead : decode Config.ref 0x031100 = .ok (.bufRead 0x11) := rfl
theorem test_decode_bufClose : decode Config.ref 0x041000 = .ok (.bufClose 0x10) := rfl
theorem test_decode_bufOpen : decode Config.ref 0x051000 = .ok (.bufOpen 0x10) := rfl
theorem test_decode_bufReset : decode Config.ref 0x061000 = .ok (.bufReset 0x10) := rfl
theorem test_decode_bufIsclosed : decode Config.ref 0x070100 = .ok (.bufIsclosed 0x01) := rfl
theorem test_decode_bufIsempty : decode Config.ref 0x080300 = .ok (.bufIsempty 0x03) := rfl
theorem test_decode_dbWhandle : decode Config.ref 0x100000 = .ok (.dbWhandle .ing) := rfl
theorem test_decode_dbRhandle : decode Config.ref 0x110100 = .ok (.dbRhandle .egr) := rfl
theorem test_decode_dbPut : decode Config.ref 0x120044 = .ok (.dbPut .ing 0x44) := rfl
theorem test_decode_dbPeek : decode Config.ref 0x130000 = .ok (.dbPeek .ing) := rfl
theorem test_decode_dbTake : decode Config.ref 0x140100 = .ok (.dbTake .egr) := rfl
theorem test_decode_dbSwappable : decode Config.ref 0x150000 = .ok (.dbSwappable .ing) := rfl
theorem test_decode_dbSwap : decode Config.ref 0x160100 = .ok (.dbSwap .egr) := rfl
theorem test_decode_poolAlloc : decode Config.ref 0x200000 = .ok .poolAlloc := rfl
theorem test_decode_poolFree : decode Config.ref 0x211300 = .ok (.poolFree 0x13) := rfl
theorem test_decode_trNext : decode Config.ref 0x300000 = .ok .trNext := rfl
theorem test_decode_trPutb : decode Config.ref 0x3100EF = .ok (.trPutb 0xEF) := rfl
theorem test_decode_trFlush : decode Config.ref 0x320000 = .ok .trFlush := rfl
theorem test_decode_trRxbyte : decode Config.ref 0x3300AF = .ok (.trRxbyte 0xAF) := rfl
theorem test_decode_trRxtmo : decode Config.ref 0x340000 = .ok .trRxtmo := rfl
theorem test_decode_trTxbyte : decode Config.ref 0x350000 = .ok .trTxbyte := rfl
theorem test_decode_parFetch : decode Config.ref 0x400000 = .ok .parFetch := rfl
theorem test_decode_parExec : decode Config.ref 0x410000 = .ok .parExec := rfl
theorem test_decode_frmStep : decode Config.ref 0x500000 = .ok .frmStep := rfl
theorem test_decode_frmPost : decode Config.ref 0x511000 = .ok (.frmPost 0x10) := rfl
theorem test_decode_outPop : decode Config.ref 0x600000 = .ok .outPop := rfl
theorem test_decode_errPop : decode Config.ref 0x610000 = .ok .errPop := rfl
theorem test_decode_sysReset : decode Config.ref 0x700000 = .ok .sysReset := rfl

/-! ### Reserved words of V-ENC-2 -/

theorem test_reserved_opcodes :
    [0x000000, 0x090000, 0x170000, 0x220000, 0x360000, 0x420000, 0x520000, 0x620000, 0x710000, 0xFF0000].all
      (fun w => (decode Config.ref w).toOption.isNone) = true := by decide

theorem test_reserved_unused_a0 : decode Config.ref 0x300001 = .error .unusedA0 := rfl
theorem test_reserved_unused_a1 : decode Config.ref 0x200100 = .error .unusedA1 := rfl
theorem test_reserved_peek_a0 : decode Config.ref 0x021001 = .error .unusedA0 := rfl
theorem test_reserved_select : decode Config.ref 0x160200 = .error .selectBits := rfl
theorem test_reserved_handle : decode Config.ref 0x010409 = .error .reservedHandle := rfl
theorem test_reserved_past_pool : decode Config.ref 0x011409 = .error .reservedHandle := rfl

/-! ### Register images and error codes (V-ENC-4, V-ENC-5), the frame (S1, V-ENC-6) -/

theorem test_pstate_bits :
    [PState.seekPreamble 0, .seekPreamble 2, .readLength, .readPayload 5, .readPayload 251, .errorRecovery 1].map
      PState.bits = [0x000, 0x002, 0x100, 0x205, 0x2FB, 0x301] := by decide

theorem test_fstate_bits :
    [FState.idle, .preamble 2, .payload, .checksum].map FState.bits = [0x000, 0x102, 0x200, 0x300] := by decide

theorem test_owner_bits :
    [Owner.free, .heldParser, .inQOut, .heldHost, .inQIn, .heldFramer].map Owner.bits = [0, 1, 2, 3, 4, 5] := by decide

theorem test_error_codes :
    [ProtocolError.preambleMismatch 0, .preambleMismatch 1, .preambleMismatch 2, .frameTooShort, .checksumMismatch].map
      ProtocolError.code = [0x40, 0x41, 0x42, 0x80, 0xC0] := by decide

theorem test_frame_constants : (pXor Config.ref, maxStored Config.ref, minStored Config.ref) = (0x43, 251, 4) := by decide

theorem test_frame_of_S1 :
    emittedFrame Config.ref [0x09, 0x01, 0x02, 0x0A, 0x05] =
      [0x03, 0xAF, 0xEF, 0x09, 0x01, 0x02, 0x0A, 0x05, 0x46] := by decide

theorem test_length_byte : (remainingAfter Config.ref 0x09, payloadCount Config.ref 0x09) = (5, 4) := by decide

/-! ### States for the tests -/

/-- A small configuration: every capacity is soon reached. -/
def tiny : Config :=
  { pre := [0x03, 0xAF], minFrameLen := 4, nIng := 2, nEgr := 2, poolSize := 2, poolCap := 4, errqDepth := 1 }

/-- The registers of a Buffer with the bytes stored in it from index 0. -/
def put (h : Handle) (b : Buf) (bytes : List Byte) (s : State) : State :=
  { s.setBuf h b with
    mem := (List.range bytes.length).foldl (fun m i => m.write (addr h i) (bytes[i]?.getD 0)) s.mem }

/-- A state in the middle of work, under any configuration with two pool Buffers: bytes in both pairs, the Parser in a
frame, the Framer in a frame, a byte in the latch. -/
def busy (c : Config) : State :=
  { put 0x00 ⟨1, 0, false⟩ [0x55] <| put 0x01 ⟨2, 1, true⟩ [0x03, 0xAF] <|
    put 0x02 ⟨1, 0, false⟩ [0xAF] <| put 0x03 ⟨2, 0, true⟩ [0x01, 0x03] <|
    put 0x10 ⟨1, 0, false⟩ [0x05] <| put 0x11 ⟨3, 1, true⟩ [0x05, 0x61, 0x62] <| State.resetOf c with
    avail := 0, owner := [.heldParser, .heldFramer], pstate := .readPayload 2, pacc := 0xA9, pcur := some 0x10,
    platch := some 0x61, fstate := .payload, facc := 0xA9, fcur := some 0x11 }

/-- The same with both buffers of each pair closed. -/
def jammed (c : Config) : State := put 0x00 ⟨2, 0, true⟩ [0x55, 0x56] <| put 0x02 ⟨2, 0, true⟩ [0xAF, 0x05] <| busy c

/-- The same with both read buffers drained and the latch empty, so that a swap of each pair waits. -/
def drained (c : Config) : State :=
  { (((jammed c).setBuf 0x01 ⟨2, 2, false⟩).setBuf 0x03 ⟨2, 2, false⟩) with platch := none }

/-- A state with a Buffer in each queue of handles and an error code waiting; the sequencers are idle. -/
def queued (c : Config) : State :=
  { put 0x10 ⟨2, 0, true⟩ [0x05, 0x61] <| put 0x11 ⟨2, 0, true⟩ [0x05, 0x62] <| State.resetOf c with
    avail := 0, owner := [.inQOut, .inQIn], qOut := [0x10], qIn := [0x11], errq := [0x40] }

/-- A state with one free Buffer and one of the host's, open and with room for one byte more. -/
def hosted (c : Config) : State :=
  { put 0x11 ⟨3, 1, false⟩ [0x05, 0x61, 0x62] <| State.resetOf c with avail := 1, owner := [.free, .heldHost] }

/-- A state served on the port of an agent. -/
def on (a : Agent) (s : State) : State := { s with port := a }

/-- One operation on an agent's port: what it leaves, where the model goes on. -/
def after (a : Agent) (i : Instr) (s : State) : Option State :=
  match exec i (on a s) with
  | .next t => some t
  | .fault _ => none
  | .refused _ => none

/-- The response of one operation on an agent's port, and the registers of a Buffer after it. -/
def seen (a : Agent) (i : Instr) (h : Handle) (s : State) : Option (RspWord × Buf) :=
  (after a i s).map fun t => (t.rsp.get a, t.buf h)

/-! ### One step of each operation -/

/-- R120: the write that fills the Buffer closes it. -/
theorem test_bufWrite_fills : seen .host (.bufWrite 0x11 0xAA) 0x11 (hosted tiny) = some (0x0000, ⟨4, 1, true⟩) := by
  decide

/-- V-BUF-2: the host does not hold a free Buffer. -/
theorem test_bufWrite_not_owner : seen .host (.bufWrite 0x10 0x01) 0x10 (hosted tiny) = some (0xFF03, ⟨0, 0, false⟩) := by
  decide

theorem test_bufPeek : seen .host (.bufPeek 0x11) 0x11 (hosted tiny) = some (0x0061, ⟨3, 1, false⟩) := by decide

/-- R122: the read that drains a closed Buffer reopens it. -/
theorem test_bufRead_drains :
    seen .host (.bufRead 0x11) 0x11 ((hosted tiny).setBuf 0x11 ⟨3, 2, true⟩) = some (0x0062, ⟨3, 3, false⟩) := by decide

/-- D8: a read of an empty Buffer does not reopen it. -/
theorem test_bufRead_empty :
    seen .host (.bufRead 0x11) 0x11 ((hosted tiny).setBuf 0x11 ⟨0, 0, true⟩) = some (0x0100, ⟨0, 0, true⟩) := by decide

theorem test_bufClose : seen .host (.bufClose 0x11) 0x11 (hosted tiny) = some (0x0000, ⟨3, 1, true⟩) := by decide

theorem test_bufOpen :
    seen .host (.bufOpen 0x11) 0x11 ((hosted tiny).setBuf 0x11 ⟨3, 1, true⟩) = some (0x0000, ⟨3, 1, false⟩) := by decide

theorem test_bufReset : seen .host (.bufReset 0x11) 0x11 (hosted tiny) = some (0x0000, ⟨0, 0, false⟩) := by decide

theorem test_bufIsclosed_any_agent : seen .tx (.bufIsclosed 0x01) 0x01 (busy tiny) = some (0x0001, ⟨2, 1, true⟩) := by decide

theorem test_bufIsempty_any_agent : seen .host (.bufIsempty 0x00) 0x00 (busy tiny) = some (0x0000, ⟨1, 0, false⟩) := by
  decide

/-- V-ENC-7. -/
theorem test_dbWhandle : seen .host (.dbWhandle .egr) 0x02 (busy tiny) = some (0x0002, ⟨1, 0, false⟩) := by decide

theorem test_dbRhandle :
    seen .host (.dbRhandle .ing) 0x00 { busy tiny with awIng := true } = some (0x0000, ⟨1, 0, false⟩) := by decide

/-- V-DB-2: the put that fills closes and does not swap. -/
theorem test_dbPut : seen .rx (.dbPut .ing 0x44) 0x00 (busy tiny) = some (0x0000, ⟨2, 0, true⟩) := by decide

theorem test_dbPeek : seen .parser (.dbPeek .ing) 0x01 (busy tiny) = some (0x00AF, ⟨2, 1, true⟩) := by decide

theorem test_dbTake : seen .tx (.dbTake .egr) 0x03 (busy tiny) = some (0x0001, ⟨2, 1, true⟩) := by decide

theorem test_dbSwappable :
    ((after .host (.dbSwappable .ing) (drained tiny)).map (·.rsp.host),
      (after .host (.dbSwappable .ing) (jammed tiny)).map (·.rsp.host)) = (some 0x0001, some 0x0000) := by decide

theorem test_dbSwap :
    (after .rx (.dbSwap .ing) (drained tiny)).map (fun t => (t.awIng, t.buf 0x00, t.buf 0x01)) =
      some (true, ⟨2, 0, true⟩, ⟨0, 0, false⟩) := by decide

theorem test_dbSwap_not_swappable :
    (after .rx (.dbSwap .ing) (jammed tiny)).map (fun t => (t.awIng, t.fault, t.rsp.rx)) =
      some (false, 0b000001, 0xFF00) := by decide

/-- V-POOL-1. -/
theorem test_poolAlloc :
    (after .host .poolAlloc (hosted tiny)).map (fun t => (t.rsp.host, t.avail, t.owner)) =
      some (0x0010, 0, [.heldHost, .heldHost]) := by decide

theorem test_poolAlloc_holds : (after .host .poolAlloc (queued tiny)).map (fun t => (t.rsp.host, t.avail)) = some (0x0300, 0) := by
  decide

theorem test_poolFree :
    (after .host (.poolFree 0x11) (hosted tiny)).map (fun t => (t.rsp.host, t.avail, t.owner)) =
      some (0x0000, 2, [.free, .free]) := by decide

/-- V-POOL-2: a double free. -/
theorem test_poolFree_twice :
    (after .host (.poolFree 0x10) (hosted tiny)).map (fun t => (t.rsp.host, t.avail)) = some (0xFF03, 1) := by decide

theorem test_trNext : seen .parser .trNext 0x01 (busy tiny) = some (0x00AF, ⟨2, 2, false⟩) := by decide

/-- R173: the swap that waited comes first. -/
theorem test_trPutb_swaps_first :
    (after .framer (.trPutb 0x77) (drained tiny)).map (fun t => (t.awEgr, t.buf 0x03, t.buf 0x02, t.mem.read (addr 0x03 0))) =
      some (true, ⟨1, 0, false⟩, ⟨2, 0, true⟩, some 0x77) := by decide

/-- R173 (b): the byte fills the write buffer while the read buffer is drained by nobody: no swap now. -/
theorem test_trPutb_fills :
    (after .framer (.trPutb 0x77) (busy tiny)).map (fun t => (t.awEgr, t.buf 0x02)) = some (false, ⟨2, 0, true⟩) := by
  decide

theorem test_trFlush :
    (after .host .trFlush (busy tiny)).map (fun t => (t.rsp.host, t.awEgr, t.buf 0x02)) =
      some (0x0000, false, ⟨1, 0, true⟩) := by decide

/-- V-TR-1: overrun. -/
theorem test_trRxbyte_overrun :
    (after .rx (.trRxbyte 0x99) (jammed tiny)).map (fun t => (t.rsp.rx, t.fault, t.buf 0x00)) =
      some (0xFF01, 0b000010, ⟨2, 0, true⟩) := by decide

theorem test_trRxbyte_fills :
    (after .rx (.trRxbyte 0x99) (busy tiny)).map (fun t => (t.rsp.rx, t.mem.read (addr 0x00 1), t.buf 0x00, t.rx)) =
      some (0x0000, some 0x99, ⟨2, 0, true⟩, [0x99]) := by decide

/-- V-TR-2: a partial write buffer is closed and swapped; an empty one is not. -/
theorem test_trRxtmo :
    ((after .rx .trRxtmo ((busy tiny).setBuf 0x01 ⟨2, 2, false⟩)).map fun t => (t.awIng, t.buf 0x00, t.buf 0x01)) =
      some (true, ⟨1, 0, true⟩, ⟨0, 0, false⟩) := by decide

theorem test_trRxtmo_empty :
    ((after .rx .trRxtmo (State.resetOf tiny)).map fun t => (t.rsp.rx, t.awIng, t.buf 0x00)) =
      some (0x0000, false, ⟨0, 0, false⟩) := by decide

theorem test_trTxbyte :
    (after .tx .trTxbyte (busy tiny)).map (fun t => (t.rsp.tx, t.tx, t.linkOut, t.buf 0x03)) =
      some (0x0001, [0x01], some 0x01, ⟨2, 1, true⟩) := by decide

/-- V-PAR-12. -/
theorem test_parFetch :
    (after .parser .parFetch { busy tiny with platch := none }).map (fun t => (t.rsp.parser, t.platch, t.buf 0x01)) =
      some (0x0000, some 0xAF, ⟨2, 2, false⟩) := by decide

theorem test_parFetch_latched : (after .parser .parFetch (busy tiny)).map (·.rsp.parser) = some 0x0300 := by decide

/-- S1, the row of the length byte: `ReadLength`, `pacc = 0x43`, byte 0x09. -/
theorem test_parExec_length :
    (after .parser .parExec { State.reset with pstate := .readLength, pacc := 0x43, platch := some 0x09 }).map
      (fun t => ((t.pstate, t.pacc, t.pcur), t.avail, t.owner[0]?, t.buf 0x10)) =
      some ((.readPayload 5, 0x4A, some 0x10), 3, some .heldParser, ⟨1, 0, false⟩) := by decide

/-- R161 (b), U2: the free input of a `PAR.STEP` says which free Buffer it takes. -/
theorem test_parStep_takes_either_free_buffer :
    [0, 1].map (fun n => match parStep n { State.resetOf tiny with pstate := .readLength, platch := some 0x04 } with
      | .next t => t.pcur
      | _ => none) = [some 0x10, some 0x11] := by decide

/-- R198's example: `pacc = 0x46`, byte 0xB9. -/
theorem test_parExec_bad_checksum :
    (after .parser .parExec { busy tiny with pstate := .readPayload 1, pacc := 0x46, platch := some 0xB9 }).map
      (fun t => ((t.pstate, t.pacc, t.pcur), t.avail, t.errq, t.qOut)) =
      some ((.errorRecovery 0, 0x00, none), 1, [0xC0], []) := by decide

/-- R222's example: `Preamble(2)`, `facc = 0xAC`. -/
theorem test_frmStep_preamble :
    (after .framer .frmStep { put 0x10 ⟨1, 0, true⟩ [0x09] State.reset with
      fstate := .preamble 2, facc := 0xAC, fcur := some 0x10, avail := 3,
      owner := [.heldFramer, .free, .free, .free] }).map
      (fun t => (t.facc, t.fstate, t.mem.read (addr 0x02 0), t.buf 0x02)) =
      some (0x43, .payload, some 0xEF, ⟨1, 0, false⟩) := by decide

/-- R224's example: `facc = 0x46`, the Buffer is freed and the pair flushed. -/
theorem test_frmStep_checksum :
    (after .framer .frmStep { put 0x10 ⟨1, 1, false⟩ [0x09] State.reset with
      fstate := .checksum, facc := 0x46, fcur := some 0x10, avail := 3,
      owner := [.heldFramer, .free, .free, .free] }).map
      (fun t => ((t.facc, t.fstate, t.fcur), t.avail, t.awEgr, t.buf 0x02)) =
      some ((0x00, .idle, none), 4, true, ⟨1, 0, true⟩) := by decide

/-- R226's example. -/
theorem test_frmPost :
    (after .host (.frmPost 0x11) ((hosted tiny).setBuf 0x11 ⟨3, 0, true⟩)).map (fun t => (t.rsp.host, t.qIn, t.owner)) =
      some (0x0000, [0x11], [.free, .inQIn]) := by decide

/-- V-FRM-4: an open Buffer. -/
theorem test_frmPost_open : (after .host (.frmPost 0x11) (hosted tiny)).map (fun t => (t.rsp.host, t.qIn)) = some (0xFF04, []) := by
  decide

theorem test_outPop :
    (after .host .outPop (queued tiny)).map (fun t => (t.rsp.host, t.qOut, t.owner)) =
      some (0x0010, [], [.heldHost, .inQIn]) := by decide

theorem test_errPop : (after .host .errPop (queued tiny)).map (fun t => (t.rsp.host, t.errq)) = some (0x0040, []) := by decide

theorem test_sysReset :
    (after .host .sysReset { busy tiny with fault := 0b001001 }).map (fun t => (t.fault, t.avail, t.pstate, t.rsp.host)) =
      some (0, 2, .seekPreamble 0, 0x0000) := by decide

/-- V-ENC-2 and V-ENC-3: a reserved word on a port, and the word as the host places it. -/
theorem test_step_reserved :
    (match step (State.reset.withFetchWord 24 0x010409) with
      | .next t => some (t.fault, t.rsp.host, t.pending)
      | .fault _ => none
      | .refused _ => none) = some (0b100000, 0xFF05, []) := by decide

theorem test_step_command :
    (match step (State.reset.withFetchWord 24 0x160000) with
      | .next t => some (t.port, t.fault, t.rsp.rx)
      | .fault _ => none
      | .refused _ => none) = some (.rx, 0b000001, 0xFF00) := by decide

theorem test_trace_line :
    traceLine (.bufWrite 0x11 0x09) (on .host (hosted tiny)) =
      some "A_HOST: BUF.WRITE 0x11, 0x09 ; 0x011109 -> OK" := by decide

/-! ### Witnesses: the encoding and one step -/

/-- `tiny` with pool Buffers that hold the longest frame. -/
def wide : Config := { tiny with poolCap := 252 }

/-- A state with two free Buffers and a byte in the latch. -/
def spare : State := { State.resetOf tiny with platch := some 0x55 }

/-- The same with no byte latched. -/
def unlatched : State := { spare with platch := none }

/-- A command word waiting on an agent's port. -/
def waiting (a : Agent) (w : CmdWord) (s : State) : State := { s with pending := [.command a w 0] }

theorem witness_DecodeInvertsEncode : (Instr.frmPost 0x13).WellFormed Config.ref := .inr (by decide)

theorem witness_EncodeInvertsDecode : decode Config.ref 0x511300 = .ok (.frmPost 0x13) := rfl

/-- No row of the map has the opcode. -/
theorem not_isCommand_of_opcode {c : Config} {w : CmdWord} (h : ∀ row ∈ opcodeRows, opField w ≠ row.1) :
    ¬ IsCommand c w := fun ⟨row, m, e, _⟩ => h row m e

/-- The rows of the map with an opcode, by evaluation. -/
theorem not_isCommand_of_row {c : Config} {w : CmdWord} {u : A1Use} {b : Bool}
    (h : ∀ row ∈ opcodeRows, opField w = row.1 → row.2 = (u, b))
    (n : ¬ (u.Allows c (a1Field w) ∧ (b = false → a0Field w = 0))) : ¬ IsCommand c w := by
  rintro ⟨row, m, e, x, y⟩
  have := h row m e
  rw [this] at x y
  exact n ⟨x, y⟩

/-- One word for each clause of R108, at the ends of the ranges of handles. -/
theorem witness_ReservedWordOnlyRaisesReserved :
    tiny.Valid ∧ (waiting .host 0x010409 (busy tiny)).pending = [.command .host 0x010409 0] ∧
    ¬ IsCommand tiny 0x000000 ∧ ¬ IsCommand tiny 0x710000 ∧ ¬ IsCommand tiny 0x200100 ∧ ¬ IsCommand tiny 0x021001 ∧
    ¬ IsCommand tiny 0x160200 ∧ ¬ IsCommand tiny 0x010409 ∧ ¬ IsCommand tiny 0x011209 ∧ IsCommand tiny 0x011109 := by
  refine ⟨by decide, rfl, not_isCommand_of_opcode (by decide), not_isCommand_of_opcode (by decide),
    not_isCommand_of_row (u := .zero) (b := false) (by decide) ?_,
    not_isCommand_of_row (u := .handle) (b := false) (by decide) ?_,
    not_isCommand_of_row (u := .select) (b := false) (by decide) ?_,
    not_isCommand_of_row (u := .handle) (b := true) (by decide) ?_,
    not_isCommand_of_row (u := .handle) (b := true) (by decide) ?_,
    (0x01, .handle, true), by decide, by decide, ?_, by decide⟩
  · exact fun h => absurd h.1 (by show ¬ (_ = _); decide)
  · exact fun h => absurd (h.2 rfl) (by decide)
  · exact fun h => absurd h.1 (by show ¬ (_ ∨ _); decide)
  · exact fun h => absurd h.1 (by show ¬ isLegalHandle _ _; decide)
  · exact fun h => absurd h.1 (by show ¬ isLegalHandle _ _; decide)
  · show isLegalHandle _ _; decide

theorem witness_StepRunsDecodedInstruction :
    (busy tiny).cfg.Valid ∧ (waiting .parser 0x410000 (busy tiny)).pending = [.command .parser 0x410000 0] ∧
    decode (busy tiny).cfg 0x410000 = .ok .parExec := by
  exact ⟨by decide, rfl, rfl⟩

theorem witness_StepWithoutCommand :
    (State.reset.cfg.Valid ∧ State.reset.pending = []) ∧
    ({ busy tiny with pending := [.rst] } : State).pending = .rst :: [] ∧
    ¬ Config.Valid { tiny with minFrameLen := 3 } ∧ ¬ Config.Valid { tiny with pre := [0x03, 0x03] } := by decide

theorem witness_OutcomesChangeOnlyWhatTheyMay :
    (∃ t, exec .outPop (on .host (queued tiny)) = .next t) ∧
    (∃ t, exec (.bufPeek 0x11) (on .host ((hosted tiny).setBuf 0x11 Buf.empty)) = .next t) ∧
    (∃ t, exec (.bufWrite 0x11 0x00) (on .host ((hosted tiny).setBuf 0x11 ⟨4, 0, true⟩)) = .next t) ∧
    (∃ t, exec .poolAlloc (on .host (queued tiny)) = .next t) ∧
    (∃ t, exec (.trRxbyte 0x00) (on .rx (jammed tiny)) = .next t) :=
  ⟨⟨_, rfl⟩, ⟨_, rfl⟩, ⟨_, rfl⟩, ⟨_, rfl⟩, ⟨_, rfl⟩⟩

theorem hosted_inv : (hosted tiny).Inv := inv_of_check (by decide)
theorem unlatched_inv : unlatched.Inv := inv_of_check (by decide)

theorem witness_NoStepStops : (waiting .parser 0x410000 (busy tiny)).Inv := inv_of_check (by decide)

/-! ### Witnesses: Buffers, pairs, pool, transport -/

theorem witness_BufWriteAppendsOrReportsFull :
    (on .host (hosted tiny)).Sized ∧ isLegalHandle tiny 0x11 ∧
    (on .host (hosted tiny)).agentOwning 0x10 ≠ some .host ∧
    (on .host (hosted tiny)).agentOwning 0x11 = some .host ∧
    ((hosted tiny).buf 0x11).closed = false ∧ ((hosted tiny).buf 0x11).put + 1 = (hosted tiny).cap 0x11 ∧
    (((hosted tiny).setBuf 0x11 ⟨4, 4, false⟩).buf 0x11).put = (hosted tiny).cap 0x11 ∧
    (((hosted tiny).setBuf 0x11 ⟨0, 0, true⟩).buf 0x11).closed = true := by decide

theorem witness_BufPeekShowsByteAtGet :
    isLegalHandle tiny 0x11 ∧ ((hosted tiny).buf 0x11).put ≤ (hosted tiny).cap 0x11 ∧
    (on .tx (hosted tiny)).agentOwning 0x11 ≠ some .tx ∧ (on .host (hosted tiny)).agentOwning 0x11 = some .host ∧
    (((hosted tiny).setBuf 0x11 ⟨4, 3, true⟩).buf 0x11).get + 1 = (((hosted tiny).setBuf 0x11 ⟨4, 3, true⟩).buf 0x11).put ∧
    (((hosted tiny).setBuf 0x11 ⟨4, 4, false⟩).buf 0x11).get = (((hosted tiny).setBuf 0x11 ⟨4, 4, false⟩).buf 0x11).put := by
  decide

theorem witness_BufReadTakesByteAtGet :
    (on .tx (busy tiny)).Sized ∧ isLegalHandle tiny 0x03 ∧ ((busy tiny).buf 0x03).put ≤ (busy tiny).cap 0x03 ∧
    (on .host (busy tiny)).agentOwning 0x03 ≠ some .host ∧ (on .tx (busy tiny)).agentOwning 0x03 = some .tx ∧
    ((busy tiny).buf 0x03).get < ((busy tiny).buf 0x03).put ∧
    ((drained tiny).buf 0x03).put ≤ ((drained tiny).buf 0x03).get := by decide

theorem witness_BufCloseOpenResetSetTheRegisters :
    (on .host (hosted tiny)).Sized ∧ isLegalHandle tiny 0x11 ∧ isLegalHandle tiny 0x00 ∧
    (on .host (hosted tiny)).agentOwning 0x00 ≠ some .host ∧ (on .host (hosted tiny)).agentOwning 0x11 = some .host := by
  decide

theorem witness_BufQueriesAnswerAnyAgent : isLegalHandle tiny 0x00 ∧ isLegalHandle tiny 0x03 ∧ isLegalHandle tiny 0x10 ∧
    isLegalHandle tiny 0x11 := by decide

theorem witness_DbPutWritesTheWriteBuffer :
    (busy tiny).Sized ∧ (on .host (busy tiny)).port ≠ producer .ing ∧ (on .rx (busy tiny)).port = producer .ing ∧
    ((jammed tiny).buf ((jammed tiny).wh .ing)).closed = true ∧
    (((busy tiny).setBuf 0x00 ⟨2, 0, false⟩).buf 0x00).put = (busy tiny).cap 0x00 ∧
    ((busy tiny).buf ((busy tiny).wh .ing)).closed = false ∧
    ((busy tiny).buf ((busy tiny).wh .ing)).put + 1 = (busy tiny).cap ((busy tiny).wh .ing) := by decide

theorem witness_DbPeekAndTakeReadTheReadBuffer :
    (busy tiny).Sized ∧ ((busy tiny).buf ((busy tiny).rh .egr)).put = (busy tiny).cap ((busy tiny).rh .egr) ∧
    (on .host (busy tiny)).port ≠ consumer .egr ∧ (on .tx (busy tiny)).port = consumer .egr ∧
    ((busy tiny).buf ((busy tiny).rh .egr)).get < ((busy tiny).buf ((busy tiny).rh .egr)).put ∧
    ((drained tiny).buf ((drained tiny).rh .egr)).put = ((drained tiny).buf ((drained tiny).rh .egr)).get := by decide

theorem witness_DbSwapExchangesTheBuffers :
    (drained tiny).Sized ∧ (on .host (drained tiny)).port ≠ swapOwner .egr ∧ (on .framer (drained tiny)).port = swapOwner .egr ∧
    ¬ (jammed tiny).Swappable .egr ∧ ¬ State.reset.Swappable .egr ∧ (drained tiny).Swappable .egr := by decide

theorem witness_PoolAllocHandsOutAFreeBuffer :
    (hosted tiny).cfg.Valid ∧ (hosted tiny).Sized ∧ (on .tx (hosted tiny)).port ≠ .parser ∧
    (on .tx (hosted tiny)).port ≠ .host ∧ (on .parser (hosted tiny)).port = .parser ∧ (on .host (hosted tiny)).port = .host ∧
    (queued tiny).avail = 0 ∧ (queued tiny).avail = (queued tiny).owner.count .free ∧ (hosted tiny).avail = 1 ∧
    (hosted tiny).avail = (hosted tiny).owner.count .free ∧ (hosted tiny).owner[0]? = some .free ∧
    spare.owner[1]? = some .free := by decide

theorem witness_PoolFreeReturnsAHeldBuffer :
    (hosted tiny).Sized ∧ ¬ isPoolHandle tiny 0x00 ∧ ¬ isPoolHandle tiny 0x12 ∧ isPoolHandle tiny 0x10 ∧ isPoolHandle tiny 0x11 ∧
    (hosted tiny).ownerOf 0x10 ≠ heldBy .host ∧ (hosted tiny).ownerOf 0x11 = heldBy .host ∧
    (hosted tiny).ownerOf 0x11 ≠ heldBy .rx := by decide

theorem witness_TrNextTakesAnIngressByte :
    (busy tiny).Sized ∧ ((busy tiny).buf ((busy tiny).rh .ing)).put = (busy tiny).cap ((busy tiny).rh .ing) ∧
    (on .host (busy tiny)).port ≠ .parser ∧ (on .parser (busy tiny)).port = .parser ∧
    ((busy tiny).buf ((busy tiny).rh .ing)).get + 1 = ((busy tiny).buf ((busy tiny).rh .ing)).put ∧
    ((drained tiny).buf ((drained tiny).rh .ing)).put = ((drained tiny).buf ((drained tiny).rh .ing)).get := by decide

theorem witness_TrPutbPassesAByteToEgress :
    ((busy tiny).Sized ∧ (busy tiny).HasRoom .egr ∧ (on .host (busy tiny)).port ≠ .framer) ∧
    ((jammed tiny).Sized ∧ (jammed tiny).HasRoom .egr ∧ ((jammed tiny).buf ((jammed tiny).wh .egr)).closed = true ∧
      ¬ (jammed tiny).Swappable .egr) ∧
    ((busy tiny).buf ((busy tiny).wh .egr)).closed = false ∧
    ((drained tiny).Sized ∧ (drained tiny).HasRoom .egr ∧ (drained tiny).Swappable .egr) := by decide

theorem witness_TrRxbyteTakesALinkByte :
    ((busy tiny).Sized ∧ (busy tiny).HasRoom .ing ∧ (on .host (busy tiny)).port ≠ .rx) ∧
    ((jammed tiny).Sized ∧ (jammed tiny).HasRoom .ing ∧ ((jammed tiny).buf ((jammed tiny).wh .ing)).closed = true ∧
      ¬ (jammed tiny).Swappable .ing) ∧
    ((busy tiny).buf ((busy tiny).wh .ing)).closed = false ∧
    ((drained tiny).Sized ∧ (drained tiny).HasRoom .ing ∧ (drained tiny).Swappable .ing) := by decide

theorem witness_TrRxtmoAndFlushCloseAPartialBuffer :
    (busy tiny).Sized ∧ (on .host (busy tiny)).port ≠ .rx ∧ (on .tx (busy tiny)).port ≠ .framer ∧
    (on .tx (busy tiny)).port ≠ .host ∧ (on .rx (busy tiny)).port = .rx ∧ (on .host (busy tiny)).port = .host ∧
    (((busy tiny).buf ((busy tiny).wh .ing)).closed = false ∧ 0 < ((busy tiny).buf ((busy tiny).wh .ing)).put) ∧
    ((jammed tiny).buf ((jammed tiny).wh .ing)).closed = true ∧ (State.reset.buf (State.reset.wh .ing)).put = 0 ∧
    (((drained tiny).buf ((drained tiny).rh .egr)).closed = false ∧ ((drained tiny).buf ((drained tiny).wh .egr)).closed = true) ∧
    ((busy tiny).buf ((busy tiny).rh .egr)).closed = true ∧
    (State.reset.buf (State.reset.wh .egr)).closed = false ∧ DbSel.ing ≠ DbSel.egr := by decide

theorem witness_TrTxbyteSendsAnEgressByte :
    (busy tiny).Sized ∧ ((busy tiny).buf ((busy tiny).rh .egr)).put = (busy tiny).cap ((busy tiny).rh .egr) ∧
    (on .host (busy tiny)).port ≠ .tx ∧ (on .tx (busy tiny)).port = .tx ∧
    ((busy tiny).buf ((busy tiny).rh .egr)).get < ((busy tiny).buf ((busy tiny).rh .egr)).put ∧
    ((drained tiny).buf ((drained tiny).rh .egr)).put = ((drained tiny).buf ((drained tiny).rh .egr)).get := by decide

/-! ### Witnesses: the Parser -/

theorem witness_ParFetchLatchesAByte :
    (busy tiny).Sized ∧ ((busy tiny).buf ((busy tiny).rh .ing)).put ≤ (busy tiny).cap ((busy tiny).rh .ing) ∧
    (on .host (busy tiny)).port ≠ .parser ∧ (busy tiny).platch ≠ none ∧ (drained tiny).platch = none ∧
    ((drained tiny).buf ((drained tiny).rh .ing)).put ≤ ((drained tiny).buf ((drained tiny).rh .ing)).get ∧
    ((busy tiny).buf ((busy tiny).rh .ing)).get < ((busy tiny).buf ((busy tiny).rh .ing)).put := by decide

theorem witness_ParExecActsOnTheLatchedByte :
    (on .host (busy tiny)).port ≠ .parser ∧ (on .parser (drained tiny)).platch = none ∧
    ∃ t, exec .parExec (on .parser (busy tiny)) = .next t :=
  ⟨by decide, rfl, _, rfl⟩

/-- A state of the Parser between frames, at the position `i` of the preamble. -/
def seeking (i : Nat) (b : Byte) (errq : List Byte) : State :=
  on .parser { State.resetOf tiny with pstate := .seekPreamble i, platch := some b, errq := errq }

theorem witness_ParserSeeksThePreamble :
    ((seeking 0 0x03 []).port = .parser ∧ (seeking 0 0x03 []).platch = some 0x03 ∧
      (seeking 0 0x03 []).pstate = .seekPreamble 0 ∧ (seeking 0 0x03 []).cfg.pre[0]? = some 0x03) ∧
    ((seeking 1 0x03 []).cfg.pre[1]? = some 0xAF ∧ (0x03 : Byte) ≠ 0xAF ∧
      (seeking 1 0x03 []).errq.length < (seeking 1 0x03 []).cfg.errqDepth) ∧
    (seeking 1 0x03 [0x40]).cfg.errqDepth ≤ (seeking 1 0x03 [0x40]).errq.length := by decide

/-- A state of the Parser at the length byte. -/
def atLength (b : Byte) (s : State) : State := on .parser { s with pstate := .readLength, pacc := 0xAC, platch := some b }

theorem witness_ParserRejectsAShortLength :
    1 ≤ (atLength 0x03 spare).cfg.k ∧ (atLength 0x03 spare).port = .parser ∧ (atLength 0x03 spare).platch = some 0x03 ∧
    (atLength 0x03 spare).pstate = .readLength ∧ (0x03 : Byte).toNat + 1 = (atLength 0x03 spare).cfg.minFrameLen ∧
    (atLength 0x03 spare).errq.length < (atLength 0x03 spare).cfg.errqDepth ∧
    (atLength 0x00 (queued tiny)).cfg.errqDepth ≤ (atLength 0x00 (queued tiny)).errq.length := by decide

theorem witness_ParserAllocatesForALegalLength :
    (atLength 0x04 spare).cfg.Valid ∧ (atLength 0x04 spare).Sized ∧ (atLength 0x04 spare).pstate = .readLength ∧
    (atLength 0x04 spare).cfg.minFrameLen = (0x04 : Byte).toNat ∧ (atLength 0xFF spare).cfg.minFrameLen ≤ (0xFF : Byte).toNat ∧
    (atLength 0x04 (queued tiny)).avail = 0 ∧ 0 = (atLength 0x04 (queued tiny)).owner.count .free ∧
    0 < (atLength 0x04 spare).avail ∧ (atLength 0x04 spare).avail = (atLength 0x04 spare).owner.count .free := by decide

/-- A state of the Parser in a frame with `r` bytes to come. -/
def inPayload (r : Nat) (b : Byte) (s : State) : State := on .parser { s with pstate := .readPayload r, platch := some b }

theorem witness_ParserReadsThePayload :
    (inPayload 2 0x61 (busy tiny)).Sized ∧ isPoolHandle tiny 0x10 ∧
    (inPayload 2 0x61 (busy tiny)).ownerOf 0x10 = some .heldParser ∧ (inPayload 2 0x61 (busy tiny)).pcur = some 0x10 ∧
    (inPayload 2 0x61 (busy tiny)).pstate = .readPayload 2 ∧ ((busy tiny).buf 0x10).closed = false ∧
    (((busy tiny).setBuf 0x10 ⟨3, 0, false⟩).buf 0x10).put + 1 = (busy tiny).cap 0x10 ∧
    (inPayload 1 0xA9 (busy tiny)).pstate = .readPayload 1 ∧ (inPayload 1 0xA9 (busy tiny)).pacc ^^^ 0xA9 = 0 := by decide

theorem witness_ParserFaultsOnPayloadOverflow :
    isPoolHandle tiny 0x10 ∧ (inPayload 2 0x61 (busy tiny)).ownerOf 0x10 = some .heldParser ∧
    (inPayload 2 0x61 (busy tiny)).pstate = .readPayload 2 ∧ (inPayload 2 0x61 (busy tiny)).pcur = some 0x10 ∧
    (((busy tiny).setBuf 0x10 ⟨4, 0, true⟩).buf 0x10).closed = true ∧
    (((busy tiny).setBuf 0x10 ⟨4, 0, false⟩).buf 0x10).put = (busy tiny).cap 0x10 := by decide

theorem witness_ParserRejectsABadChecksum :
    1 ≤ tiny.k ∧ isPoolHandle tiny 0x10 ∧ (inPayload 1 0x03 (busy tiny)).ownerOf 0x10 = some .heldParser ∧
    (inPayload 1 0x03 (busy tiny)).pstate = .readPayload 1 ∧ (inPayload 1 0x03 (busy tiny)).pcur = some 0x10 ∧
    (inPayload 1 0x03 (busy tiny)).pacc ^^^ 0x03 ≠ 0 ∧
    (inPayload 1 0x03 (busy tiny)).errq.length < (inPayload 1 0x03 (busy tiny)).cfg.errqDepth ∧
    tiny.errqDepth ≤ (inPayload 1 0x03 { busy tiny with errq := [0x80] }).errq.length := by decide

/-- A state of the Parser in recovery with `i` preamble bytes matched. -/
def recovering (i : Nat) (b : Byte) : State := on .parser { spare with pstate := .errorRecovery i, platch := some b }

theorem witness_ParserScansInRecovery :
    ((recovering 0 0x03).pstate = .errorRecovery 0 ∧ 0 < tiny.k ∧
      1 = (if tiny.pre[0]? = some 0x03 then 0 + 1 else if 0 < 0 ∧ tiny.pre[0]? = some 0x03 then 1 else 0)) ∧
    ((recovering 1 0xAF).pstate = .errorRecovery 1 ∧ 1 < tiny.k ∧
      2 = (if tiny.pre[1]? = some 0xAF then 1 + 1 else if 0 < 1 ∧ tiny.pre[0]? = some 0xAF then 1 else 0)) ∧
    1 = (if tiny.pre[1]? = some 0x03 then 1 + 1 else if 0 < 1 ∧ tiny.pre[0]? = some 0x03 then 1 else 0) ∧
    0 = (if tiny.pre[1]? = some 0x55 then 1 + 1 else if 0 < 1 ∧ tiny.pre[0]? = some 0x55 then 1 else 0) := by decide

/-- Nothing fed, bytes without a preamble, one completed by the first byte, one that a broken match begins. -/
theorem witness_RecoveryScanFindsEveryPreamble :
    unlatched.cfg.Valid ∧ unlatched.platch = none ∧ ({ unlatched with pstate := .errorRecovery 1 }).cfg.Valid ∧
    (0 < tiny.k ∧ ¬ tiny.pre <:+: tiny.pre.take 0 ++ ([] : List (Byte × Nat)).map Prod.fst) ∧
    (1 < tiny.k ∧ ¬ tiny.pre <:+: tiny.pre.take 1 ++ ([(0x03, 0), (0x55, 1)] : List (Byte × Nat)).map Prod.fst) ∧
    (tiny.pre <:+ tiny.pre.take 1 ++ ([(0xAF, 3)] : List (Byte × Nat)).map Prod.fst ∧
      ¬ tiny.pre <:+: (tiny.pre.take 1 ++ ([(0xAF, 3)] : List (Byte × Nat)).map Prod.fst).dropLast) ∧
    (tiny.pre <:+ tiny.pre.take 1 ++ ([(0x03, 0), (0xAF, 0)] : List (Byte × Nat)).map Prod.fst ∧
      ¬ tiny.pre <:+: (tiny.pre.take 1 ++ ([(0x03, 0), (0xAF, 0)] : List (Byte × Nat)).map Prod.fst).dropLast) := by decide

/-- The shortest and the longest frame that fit `tiny`. -/
theorem witness_ParserAcceptsAWellFormedFrame :
    (hosted tiny).Inv ∧ (hosted tiny).platch = none ∧ (hosted tiny).pstate = .seekPreamble 0 ∧ 0 < (hosted tiny).avail ∧
    (WellFormedFrame tiny [0x03, 0xAF, 0x04, 0xA8] ∧ 4 - tiny.k - 1 ≤ tiny.poolCap) ∧
    WellFormedFrame tiny [0x03, 0xAF, 0x07, 0x01, 0x02, 0x03, 0xAB] ∧ 7 - tiny.k - 1 = tiny.poolCap ∧
    ([(0x03, 0), (0xAF, 0), (0x04, 5), (0xA8, 0)] : List (Byte × Nat)).map Prod.fst = [0x03, 0xAF, 0x04, 0xA8] :=
  ⟨hosted_inv, by decide⟩

theorem witness_ParserRejectsACorruptedFrame :
    (hosted tiny).Inv ∧ (hosted tiny).platch = none ∧ (hosted tiny).pstate = .seekPreamble 0 ∧ 0 < (hosted tiny).avail ∧
    (hosted tiny).errq.length < (hosted tiny).cfg.errqDepth ∧ WellFormedFrame tiny [0x03, 0xAF, 0x04, 0xA8] ∧
    4 - tiny.k - 1 ≤ tiny.poolCap ∧ [0x03, 0xAF, 0x04, 0xA8].getLast? ≠ some (0x03 : Byte) ∧
    ([(0x03, 0), (0xAF, 0), (0x04, 5), (0x03, 0)] : List (Byte × Nat)).map Prod.fst =
      [0x03, 0xAF, 0x04, 0xA8].dropLast ++ [0x03] :=
  ⟨hosted_inv, by decide⟩

/-- Garbage that begins with a prefix of the preamble, and garbage that does not. -/
theorem witness_ParserResynchronises :
    unlatched.Inv ∧ unlatched.platch = none ∧ unlatched.pstate = .seekPreamble 0 ∧ 1 < unlatched.avail ∧
    unlatched.errq.length < unlatched.cfg.errqDepth ∧
    WellFormedFrame tiny [0x03, 0xAF, 0x04, 0xA8] ∧ 4 - tiny.k - 1 ≤ tiny.poolCap ∧
    WellFormedFrame tiny [0x03, 0xAF, 0x05, 0x77, 0xDE] ∧ 5 - tiny.k - 1 ≤ tiny.poolCap ∧
    ([0x03] ≠ ([] : List Byte) ∧ ¬ tiny.pre <:+: [0x03] ++ tiny.pre.dropLast) ∧
    ([0x55].head? ≠ tiny.pre.head? ∧ ¬ tiny.pre <:+: [0x55] ++ tiny.pre.dropLast) ∧
    ([(0x03, 0), (0xAF, 0), (0x04, 1), (0xA8, 0), (0x55, 0), (0x03, 0), (0xAF, 0), (0x05, 0), (0x77, 0), (0xDE, 0)] :
      List (Byte × Nat)).map Prod.fst = [0x03, 0xAF, 0x04, 0xA8] ++ [0x55] ++ [0x03, 0xAF, 0x05, 0x77, 0xDE] :=
  ⟨unlatched_inv, by decide⟩

theorem witness_HostPopsTheOldest :
    (on .parser (queued tiny)).port ≠ .host ∧ (on .host (queued tiny)).port = .host ∧ (busy tiny).qOut = [] ∧
    (queued tiny).qOut = 0x10 :: [] ∧ (busy tiny).errq = [] ∧ (queued tiny).errq = 0x40 :: [] := by decide

theorem witness_ParserAcceptsWhatTheFramerEmits :
    (hosted tiny).Inv ∧ (hosted tiny).platch = none ∧ (hosted tiny).pstate = .seekPreamble 0 ∧ 0 < (hosted tiny).avail ∧
    (tiny.minFrameLen = tiny.k + 1 + 1 ∧ [(0x04 : Byte)][0]? = some (BitVec.ofNat 8 (tiny.k + 1 + 1))) ∧
    ([(0x07 : Byte), 0x01, 0x02, 0x03].length = tiny.poolCap ∧
      [(0x07 : Byte), 0x01, 0x02, 0x03][0]? = some (BitVec.ofNat 8 (tiny.k + 1 + 4))) ∧
    ([(0x03, 0), (0xAF, 0), (0x04, 5), (0xA8, 0)] : List (Byte × Nat)).map Prod.fst = emittedFrame tiny [0x04] :=
  ⟨hosted_inv, by decide⟩

/-! ### Witnesses: the Framer -/

theorem witness_FramerIdleSwapsAndPops :
    (on .host (queued tiny)).port ≠ .framer ∧ (on .framer (queued tiny)).port = .framer ∧ (queued tiny).fstate = .idle ∧
    (queued tiny).qIn = 0x11 :: [] ∧ (spare.fstate = .idle ∧ spare.qIn = [] ∧ ¬ spare.Swappable .egr) ∧
    (({ drained tiny with fstate := .idle }).qIn = [] ∧ ({ drained tiny with fstate := .idle }).Swappable .egr) := by decide

/-- A state of the Framer in a frame. -/
def sending (f : FState) (s : State) : State := on .framer { s with fstate := f }

theorem witness_FramerSendsThePreamble :
    (sending (.preamble 0) (busy tiny)).Sized ∧ (sending (.preamble 0) (busy tiny)).HasRoom .egr ∧ isPoolHandle tiny 0x11 ∧
    (sending (.preamble 0) (busy tiny)).fcur = some 0x11 ∧ (sending (.preamble 0) (busy tiny)).fstate = .preamble 0 ∧
    tiny.pre[0]? = some 0x03 ∧ tiny.pre[1]? = some 0xAF ∧ (sending (.preamble 1) (busy tiny)).fstate = .preamble 1 ∧
    (sending (.preamble 0) (busy tiny)).CanSend ∧ (sending (.preamble 1) (drained tiny)).CanSend ∧
    ¬ (sending (.preamble 0) (jammed tiny)).CanSend ∧ (sending (.preamble 0) (jammed tiny)).HasRoom .egr := by decide

theorem witness_FramerSendsThePayload :
    (sending .payload (busy tiny)).Sized ∧ (sending .payload (busy tiny)).HasRoom .egr ∧ isPoolHandle tiny 0x11 ∧
    (sending .payload (busy tiny)).ownerOf 0x11 = some .heldFramer ∧ (sending .payload (busy tiny)).fstate = .payload ∧
    (sending .payload (busy tiny)).fcur = some 0x11 ∧ ((busy tiny).buf 0x11).get < ((busy tiny).buf 0x11).put ∧
    ((busy tiny).buf 0x11).put ≤ (busy tiny).cap 0x11 ∧ (sending .payload (busy tiny)).CanSend ∧
    ¬ (sending .payload (jammed tiny)).CanSend := by decide

theorem witness_FramerSendsTheChecksum :
    (sending .checksum (busy tiny)).Sized ∧ (sending .checksum (busy tiny)).HasRoom .egr ∧ isPoolHandle tiny 0x11 ∧
    (sending .checksum (busy tiny)).ownerOf 0x11 = some .heldFramer ∧ (sending .checksum (busy tiny)).fstate = .checksum ∧
    (sending .checksum (busy tiny)).fcur = some 0x11 ∧ (sending .checksum (drained tiny)).CanSend ∧
    ¬ (sending .checksum (jammed tiny)).CanSend := by decide

/-- A state amid the payload, and an idle one with a Buffer queued. -/
theorem witness_FramerEmitsWhatItOwes :
    ((on .framer (busy tiny)).Inv ∧ (on .framer (busy tiny)).Designed ∧ (on .framer (busy tiny)).port = .framer ∧
      (on .framer (busy tiny)).fstate ≠ .idle ∧ ∃ t, exec .frmStep (on .framer (busy tiny)) = .next t) ∧
    ((on .framer (queued tiny)).Inv ∧ (on .framer (queued tiny)).Designed ∧ (queued tiny).fstate = .idle ∧
      (queued tiny).qIn = 0x11 :: [] ∧ ∃ t, exec .frmStep (on .framer (queued tiny)) = .next t) :=
  ⟨⟨inv_of_check (by decide), designed_of_check (by decide), rfl, by decide, _, rfl⟩,
    inv_of_check (by decide), designed_of_check (by decide), rfl, rfl, _, rfl⟩

/-- The shortest content, and the longest. -/
theorem witness_EmittedFrameIsWellFormed :
    tiny.Valid ∧ (tiny.minFrameLen = tiny.k + 1 + 1 ∧ [(0x04 : Byte)][0]? = some (BitVec.ofNat 8 (tiny.k + 1 + 1))) ∧
    (tiny.k + 1 + (List.replicate 252 (0xFF : Byte)).length = 255 ∧
      (List.replicate 252 (0xFF : Byte))[0]? = some (BitVec.ofNat 8 255)) := by
  refine ⟨by decide, by decide, ?_, ?_⟩
  · rw [List.length_replicate]; rfl
  · rfl

theorem witness_FrmPostQueuesAClosedBuffer :
    ¬ isPoolHandle tiny 0x02 ∧ ¬ isPoolHandle tiny 0x12 ∧ isPoolHandle tiny 0x10 ∧ isPoolHandle tiny 0x11 ∧
    (on .framer (hosted tiny)).port ≠ .host ∧ (hosted tiny).ownerOf 0x10 ≠ some .heldHost ∧
    (on .host (hosted tiny)).port = .host ∧ (hosted tiny).ownerOf 0x11 = some .heldHost ∧
    ((hosted tiny).buf 0x11).closed = false ∧ (((hosted tiny).setBuf 0x11 ⟨3, 0, true⟩).buf 0x11).closed = true := by decide

/-! ### Witnesses: reset, faults, ownership, invariants -/

theorem witness_ResetValues :
    (∃ s, s = State.resetOf tiny) ∧ (∃ s, Config.ref = Config.ref ∧ s = State.reset) ∧ isLegalHandle tiny 0x00 ∧
    isLegalHandle tiny 0x11 ∧ 1 < tiny.poolSize :=
  ⟨⟨_, rfl⟩, ⟨_, rfl, rfl⟩, by decide⟩

theorem witness_SysResetRestoresTheResetValues :
    (on .rx (busy tiny)).port ≠ .host ∧ (on .host (jammed tiny)).port = .host := by decide

theorem witness_FaultIsStickyUntilReset :
    (∃ t, step (waiting .host 0x320000 { busy tiny with fault := 0b100010 }) = .next t) ∧
    (∀ rest, (waiting .host 0x320000 { busy tiny with fault := 0b100010 }).pending ≠ .rst :: rest) ∧
    (∀ w n rest, (waiting .host 0x320000 { busy tiny with fault := 0b100010 }).pending = .command .host w n :: rest →
      decode tiny w ≠ .ok .sysReset) ∧
    (∃ t, step (waiting .rx 0x700000 { busy tiny with fault := 0b100010 }) = .next t) ∧
    (∀ rest, (waiting .rx 0x700000 { busy tiny with fault := 0b100010 }).pending ≠ .rst :: rest) ∧
    (∀ w n rest, (waiting .rx 0x700000 { busy tiny with fault := 0b100010 }).pending ≠ .command .host w n :: rest) := by
  refine ⟨⟨_, rfl⟩, fun rest h => ?_, fun w n rest h => ?_, ⟨_, rfl⟩, fun rest h => ?_, fun w n rest h => ?_⟩
  · simp [waiting] at h
  · simp only [waiting, List.cons.injEq, Event.command.injEq] at h
    rw [← h.1.2.1]
    exact fun e => by
      have same := (show decode tiny 0x320000 = .ok .trFlush from rfl).symm.trans e
      injection same with same
      cases same
  · simp [waiting] at h
  · simp [waiting] at h

theorem witness_OwnershipFollowsTheTable :
    (0x03 : Handle).toNat < 4 ∧ isPoolHandle tiny 0x10 ∧ isPoolHandle tiny 0x11 ∧
    (busy tiny).ownerOf 0x10 = some .heldParser ∧ (busy tiny).ownerOf 0x11 = some .heldFramer ∧
    (queued tiny).ownerOf 0x10 = some .inQOut ∧ (queued tiny).ownerOf 0x11 = some .inQIn ∧
    (hosted tiny).ownerOf 0x10 = some .free ∧ (hosted tiny).ownerOf 0x11 = some .heldHost := by decide

/-- Operations of the Framer and of the Parser, and a `SYS.RESET` and a `TR.FLUSH` that are turned away. -/
theorem witness_RegistersBelongToTheirAgents :
    ((∃ t, exec .sysReset (on .rx (busy tiny)) = .next t) ∧ (on .rx (busy tiny)).port ≠ .host) ∧
    ((∃ t, exec .trFlush (on .tx (busy tiny)) = .next t) ∧ (on .tx (busy tiny)).port ≠ .host ∧
      (on .tx (busy tiny)).port ≠ .framer) ∧
    (∃ t, exec .frmStep (on .framer (busy tiny)) = .next t) ∧ (∃ t, exec .parExec (on .parser (busy tiny)) = .next t) ∧
    Instr.frmStep ≠ .sysReset ∧ Instr.frmStep ≠ .trFlush ∧ (on .framer (busy tiny)).port ≠ .parser ∧
    (on .framer (busy tiny)).port ≠ .rx ∧ (on .framer (busy tiny)).port ≠ .tx ∧ (on .parser (busy tiny)).port ≠ .framer :=
  ⟨⟨⟨_, rfl⟩, by decide⟩, ⟨⟨_, rfl⟩, by decide⟩, ⟨_, rfl⟩, ⟨_, rfl⟩, by decide⟩

theorem witness_OnlyTheirOperationsWriteThem :
    (∃ t, exec .trFlush (on .host (busy tiny)) = .next t) ∧ Instr.trFlush ≠ .sysReset ∧ Instr.trFlush ≠ .parExec ∧
    Instr.trFlush ≠ .parFetch ∧ Instr.trFlush ≠ .frmStep ∧ Instr.trFlush ≠ .outPop ∧ Instr.trFlush ≠ .errPop ∧
    Instr.trFlush ≠ .trTxbyte ∧ (∀ h, Instr.trFlush ≠ .frmPost h) ∧ ∀ b, Instr.trFlush ≠ .trRxbyte b :=
  ⟨⟨_, rfl⟩, by decide, by decide, by decide, by decide, by decide, by decide, by decide, by simp, by simp⟩

theorem witness_InvariantsHoldAfterReset : tiny.Valid ∧ Config.Valid { tiny with poolSize := 224 } := by decide

theorem witness_InvariantKeptByEveryStep :
    (waiting .framer 0x500000 (busy tiny)).Inv ∧ ∃ t, step (waiting .framer 0x500000 (busy tiny)) = .next t :=
  ⟨inv_of_check (by decide), _, rfl⟩

theorem witness_DesignedKeptByDesignedSteps :
    (waiting .framer 0x500000 (busy tiny)).Inv ∧ (waiting .framer 0x500000 (busy tiny)).Designed ∧
    (∃ t, step (waiting .framer 0x500000 (busy tiny)) = .next t) ∧
    decode tiny 0x500000 = .ok .frmStep ∧ AsDesigned .framer .frmStep :=
  ⟨inv_of_check (by decide), designed_of_check (by decide), ⟨_, rfl⟩, rfl, rfl⟩

/-- The Parser amid a frame, and a link byte that finds both ingress buffers closed. -/
theorem witness_InternalAgentsFaultOnlyOnOverrun :
    ((on .parser (busy wide)).Inv ∧ (on .parser (busy wide)).Designed ∧ maxStored wide ≤ wide.poolCap ∧
      (on .parser (busy wide)).port ≠ .host ∧ AsDesigned .parser .parExec ∧
      ∃ t, exec .parExec (on .parser (busy wide)) = .next t) ∧
    ((on .rx (jammed wide)).Inv ∧ (on .rx (jammed wide)).Designed ∧ AsDesigned .rx (.trRxbyte 0x03) ∧
      ∃ t, exec (.trRxbyte 0x03) (on .rx (jammed wide)) = .next t) :=
  ⟨⟨inv_of_check (by decide), designed_of_check (by decide), by decide, by decide, .inr rfl, _, rfl⟩,
    inv_of_check (by decide), designed_of_check (by decide), .inr ⟨_, rfl⟩, _, rfl⟩

/-- A link byte taken, a link byte dropped, a fetch, a fetch that holds, and an operation that does neither. -/
theorem witness_IngressBytesKeepTheirOrder :
    ((on .rx (busy tiny)).Inv ∧ (on .rx (busy tiny)).Designed ∧ AsDesigned .rx (.trRxbyte 0x03) ∧
      ∃ t, exec (.trRxbyte 0x03) (on .rx (busy tiny)) = .next t) ∧
    (∃ t, exec (.trRxbyte 0x03) (on .rx (jammed tiny)) = .next t) ∧
    ((on .parser (drained tiny)).Inv ∧ (on .parser (drained tiny)).Designed ∧ AsDesigned .parser .parFetch ∧
      ∃ t, exec .parFetch (on .parser (drained tiny)) = .next t) ∧
    (∃ t, exec .parFetch (on .parser { busy tiny with platch := none }) = .next t) ∧
    (AsDesigned .host .trFlush ∧ ∃ t, exec .trFlush (on .host (busy tiny)) = .next t) :=
  ⟨⟨inv_of_check (by decide), designed_of_check (by decide), .inr ⟨_, rfl⟩, _, rfl⟩, ⟨_, rfl⟩,
    ⟨inv_of_check (by decide), designed_of_check (by decide), .inl rfl, _, rfl⟩, ⟨_, rfl⟩, trivial, _, rfl⟩

theorem witness_EgressBytesKeepTheirOrder :
    ((on .framer (busy tiny)).Inv ∧ (on .framer (busy tiny)).Designed ∧ AsDesigned .framer .frmStep ∧
      ∃ t, exec .frmStep (on .framer (busy tiny)) = .next t) ∧
    ((on .tx (busy tiny)).Inv ∧ (on .tx (busy tiny)).Designed ∧ AsDesigned .tx .trTxbyte ∧
      ∃ t, exec .trTxbyte (on .tx (busy tiny)) = .next t) ∧
    ((on .tx (drained tiny)).Inv ∧ (on .tx (drained tiny)).Designed ∧
      ∃ t, exec .trTxbyte (on .tx (drained tiny)) = .next t) :=
  ⟨⟨inv_of_check (by decide), designed_of_check (by decide), rfl, _, rfl⟩,
    ⟨inv_of_check (by decide), designed_of_check (by decide), rfl, _, rfl⟩,
    inv_of_check (by decide), designed_of_check (by decide), _, rfl⟩

end Sys2Proof.Tests
end

/-! PROOFS of the scope statements: one step of the block (O5, O6) and the outcomes of an operation (O7, R11, R257). -/

namespace Sys2Proof.Machine

/-! ### One step (R9) -/

/-- A command that decodes is executed on its port, with its free input, once it has left the waiting events (R9). -/
theorem step_of_command {s : State} {a : Agent} {w : CmdWord} {n : Nat} {rest : List Event} {i : Instr}
    (valid : s.cfg.Valid) (waits : s.pending = .command a w n :: rest) (decoded : decode s.cfg w = .ok i) :
    step s = exec i (s.serve a n rest) := by
  simp only [step, if_pos valid, waits, decoded]

/-- With nothing waiting the block stands still (R9, R290). -/
theorem step_of_idle {s : State} (valid : s.cfg.Valid) (waits : s.pending = []) : step s = .next s := by
  simp only [step, if_pos valid, waits]

/-- The reset input is served like a command, without an answer (R270). -/
theorem step_of_rst {s : State} {rest : List Event} (valid : s.cfg.Valid) (waits : s.pending = .rst :: rest) :
    step s = .next (resetInput s rest) := by
  simp only [step, if_pos valid, waits]

/-- A configuration that breaks R7 is refused whatever waits. -/
theorem step_of_badConfiguration {s : State} (bad : ¬ s.cfg.Valid) : step s = .refused .badConfiguration := if_neg bad

/-- Settles O5: the served command decodes, so the step is its execution. -/
theorem stepRunsDecodedInstruction : Obligations.StepRunsDecodedInstruction :=
  fun _ _ _ _ _ _ valid waits decoded => step_of_command valid waits decoded

/-- Settles O6: the three steps without a command. -/
theorem stepWithoutCommand : Obligations.StepWithoutCommand :=
  ⟨fun _ valid waits => step_of_idle valid waits,
    fun _ _ valid waits => step_of_rst valid waits,
    fun _ bad => step_of_badConfiguration bad⟩

/-! ### Postconditions of an operation's rule

`x.Ensures P`: where `x` is performed, its value and the state it leaves satisfy `P`. One rule for each way the
model composes operations, so that a fact about a composite operation follows from those about its parts. -/

/-- What holds of the value and the state wherever the operation is performed; nothing is said of one that ends
early. -/
def Res.Ensures {α : Type} (x : Res α) (P : α → State → Prop) : Prop := ∀ v t, x = .done v t → P v t

section Ensures

variable {α β : Type} {P : α → State → Prop} {Q : β → State → Prop}

@[simp] theorem Res.ensures_done {v : α} {t : State} : (Res.done v t).Ensures P ↔ P v t :=
  ⟨fun e => e v t rfl, fun p v' t' e => by obtain ⟨rfl, rfl⟩ := Res.done_eq_done.mp e; exact p⟩

@[simp] theorem Res.ensures_abort {a : Abort} : (Res.abort a : Res α).Ensures P := fun _ _ e => nomatch e

theorem Res.Ensures.bind {x : Res α} {k : α → State → Res β} (first : x.Ensures P)
    (rest : ∀ v s, P v s → (k v s).Ensures Q) : (x.bind k).Ensures Q := by
  intro v t e
  obtain ⟨u, s, done, next⟩ := Res.bind_eq_done.mp e
  exact rest u s (first u s done) v t next

theorem Res.Ensures.holdUnless {c : Prop} [Decidable c] {x : Res α} (h : x.Ensures P) :
    (holdUnless c x).Ensures P :=
  fun v t e => h v t (holdUnless_eq_done.mp e).2

theorem Res.Ensures.faultUnless {c : Prop} [Decidable c] {f : FaultName} {x : Res α} (h : x.Ensures P) :
    (faultUnless c f x).Ensures P :=
  fun v t e => h v t (faultUnless_eq_done.mp e).2

theorem Res.Ensures.issuedBy {a : Agent} {l : List Agent} {x : Res α} (h : x.Ensures P) :
    (issuedBy a l x).Ensures P := h.faultUnless

end Ensures

/-! ### What an operation never writes itself -/

/-- The part of the state around the registers an operation works on: the parameters, `FAULT` and the `RX` trace,
which the end and the start of a command write, the response ports, the command being served, the waiting events and
the count of resets. -/
structure Surroundings where
  cfg : Config
  fault : BitVec 6
  rx : List Byte
  rsp : RspPorts
  port : Agent
  pick : Nat
  pending : List Event
  epoch : Nat

def State.surroundings (s : State) : Surroundings :=
  ⟨s.cfg, s.fault, s.rx, s.rsp, s.port, s.pick, s.pending, s.epoch⟩

@[simp] theorem State.surroundings_swapped (s : State) (d : DbSel) : (s.swapped d).surroundings = s.surroundings := by
  cases d <;> rfl

@[simp] theorem State.surroundings_swappedIf (s : State) (d : DbSel) :
    (s.swappedIf d).surroundings = s.surroundings := by
  unfold State.swappedIf; split
  · exact s.surroundings_swapped d
  · rfl

@[simp] theorem State.surroundings_readyToPut (s : State) (d : DbSel) :
    (s.readyToPut d).surroundings = s.surroundings := by
  unfold State.readyToPut; split
  · exact s.surroundings_swapped d
  · rfl

@[simp] theorem State.surroundings_pushedOut (s : State) (d : DbSel) :
    (s.pushedOut d).surroundings = s.surroundings := by
  unfold State.pushedOut
  rw [State.surroundings_swappedIf]
  split <;> rfl

@[simp] theorem State.surroundings_scan (s : State) (i : Nat) (b : Byte) :
    (scan i b s).surroundings = s.surroundings := by
  rw [scan_eq]; rfl

@[simp] theorem State.surroundings_enterRecovery (s : State) (b : Byte) :
    (enterRecovery b s).surroundings = s.surroundings := by
  rw [enterRecovery_eq]; rfl

@[simp] theorem State.surroundings_sent (s : State) (r : Reply) : (s.sent r).surroundings = s.surroundings := by
  cases r <;> rfl

/-- Where it is performed, the operation leaves the surroundings as they were in `s`. -/
def Res.KeepsSurroundings {α : Type} (x : Res α) (s : State) : Prop :=
  x.Ensures fun _ t => t.surroundings = s.surroundings

theorem Res.KeepsSurroundings.bind {α β : Type} {x : Res α} {k : α → State → Res β} {s : State}
    (first : x.KeepsSurroundings s) (rest : ∀ v s', (k v s').KeepsSurroundings s') :
    (x.bind k).KeepsSurroundings s :=
  Ensures.bind first fun v s' kept w t e => (rest v s' w t e).trans kept

/-! #### The Buffers and the pairs -/

theorem opBufWrite_keepsSurroundings (a : Agent) (h : Handle) (b : Byte) (s : State) :
    (opBufWrite a h b s).KeepsSurroundings s := by
  intro r t e
  obtain ⟨-, -, ⟨-, -, rfl⟩ | ⟨-, -, rfl⟩⟩ := opBufWrite_eq_done.mp e
  · rfl
  · rfl

theorem opBufPeek_keepsSurroundings (a : Agent) (h : Handle) (s : State) :
    (opBufPeek a h s).KeepsSurroundings s := by
  intro r t e
  obtain ⟨-, -, rfl, -⟩ := opBufPeek_eq_done.mp e
  rfl

theorem opBufRead_keepsSurroundings (a : Agent) (h : Handle) (s : State) :
    (opBufRead a h s).KeepsSurroundings s := by
  intro r t e
  obtain ⟨-, -, ⟨-, -, rfl⟩ | ⟨-, -, -, rfl⟩⟩ := opBufRead_eq_done.mp e
  · rfl
  · rfl

theorem opBufClose_keepsSurroundings (a : Agent) (h : Handle) (s : State) :
    (opBufClose a h s).KeepsSurroundings s := by
  intro r t e
  obtain ⟨-, -, -, rfl⟩ := opBufClose_eq_done.mp e
  rfl

theorem opBufOpen_keepsSurroundings (a : Agent) (h : Handle) (s : State) :
    (opBufOpen a h s).KeepsSurroundings s := by
  intro r t e
  obtain ⟨-, -, -, rfl⟩ := opBufOpen_eq_done.mp e
  rfl

theorem opBufReset_keepsSurroundings (a : Agent) (h : Handle) (s : State) :
    (opBufReset a h s).KeepsSurroundings s := by
  intro r t e
  obtain ⟨-, -, -, rfl⟩ := opBufReset_eq_done.mp e
  rfl

theorem opDbPut_keepsSurroundings (a : Agent) (d : DbSel) (b : Byte) (s : State) :
    (opDbPut a d b s).KeepsSurroundings s := (opBufWrite_keepsSurroundings a _ b s).issuedBy

theorem opDbPeek_keepsSurroundings (a : Agent) (d : DbSel) (s : State) : (opDbPeek a d s).KeepsSurroundings s :=
  (opBufPeek_keepsSurroundings a _ s).issuedBy

theorem opDbTake_keepsSurroundings (a : Agent) (d : DbSel) (s : State) : (opDbTake a d s).KeepsSurroundings s :=
  (opBufRead_keepsSurroundings a _ s).issuedBy

theorem opDbSwap_keepsSurroundings (a : Agent) (d : DbSel) (s : State) : (opDbSwap a d s).KeepsSurroundings s := by
  intro r t e
  obtain ⟨-, -, -, rfl⟩ := opDbSwap_eq_done.mp e
  exact s.surroundings_swapped d

theorem swapIfReady_keepsSurroundings (d : DbSel) (s : State) : (swapIfReady d s).KeepsSurroundings s := by
  rw [swapIfReady_swappedIf]
  exact Res.ensures_done.mpr (s.surroundings_swappedIf d)

theorem closeAndSwap_keepsSurroundings (d : DbSel) (s : State) : (closeAndSwap d s).KeepsSurroundings s := by
  rw [closeAndSwap_eq]
  exact Res.ensures_done.mpr (s.surroundings_pushedOut d)

/-! #### The pool -/

theorem allocate_keepsSurroundings (a : Agent) (s : State) : (allocate a s).KeepsSurroundings s := by
  intro h t e
  obtain ⟨-, -, _, -, -, rfl⟩ := allocate_eq_done.mp e
  rfl

theorem opPoolAlloc_keepsSurroundings (a : Agent) (s : State) : (opPoolAlloc a s).KeepsSurroundings s :=
  (allocate_keepsSurroundings a s).bind fun _ _ => Res.ensures_done.mpr rfl

theorem opPoolFree_keepsSurroundings (a : Agent) (h : Handle) (s : State) :
    (opPoolFree a h s).KeepsSurroundings s := by
  intro r t e
  obtain ⟨-, -, -, rfl⟩ := opPoolFree_eq_done.mp e
  rfl

/-! #### The transport operations -/

theorem opTrNext_keepsSurroundings (a : Agent) (s : State) : (opTrNext a s).KeepsSurroundings s :=
  (opDbTake_keepsSurroundings a .ing s).holdUnless.issuedBy

theorem opTrPutb_keepsSurroundings (a : Agent) (b : Byte) (s : State) : (opTrPutb a b s).KeepsSurroundings s := by
  intro r t e
  obtain ⟨-, -, -, r', s', put, rfl⟩ := opTrPutb_eq_done.mp e
  calc (s'.swappedIf .egr).surroundings
      = s'.surroundings := s'.surroundings_swappedIf .egr
    _ = (s.readyToPut .egr).surroundings := opDbPut_keepsSurroundings _ _ _ _ _ _ put
    _ = s.surroundings := s.surroundings_readyToPut .egr

theorem opTrRxbyte_keepsSurroundings (a : Agent) (b : Byte) (s : State) :
    (opTrRxbyte a b s).KeepsSurroundings s := by
  intro r t e
  obtain ⟨-, -, -, r', s', put, rfl⟩ := opTrRxbyte_eq_done.mp e
  calc (s'.swappedIf .ing).surroundings
      = s'.surroundings := s'.surroundings_swappedIf .ing
    _ = (s.readyToPut .ing).surroundings := opDbPut_keepsSurroundings _ _ _ _ _ _ put
    _ = s.surroundings := s.surroundings_readyToPut .ing

theorem opTrTxbyte_keepsSurroundings (a : Agent) (s : State) : (opTrTxbyte a s).KeepsSurroundings s :=
  Res.Ensures.issuedBy <| Res.Ensures.holdUnless <|
    (opDbTake_keepsSurroundings a .egr s).bind fun r s' => Res.ensures_done.mpr (s'.surroundings_sent r)

/-! #### The Parser -/

theorem storeByte_keepsSurroundings (h : Handle) (b : Byte) (s : State) : (storeByte h b s).KeepsSurroundings s := by
  intro u t e
  obtain ⟨-, -, -, rfl⟩ := storeByte_eq_done.mp e
  rfl

/-- An error report writes `ERRQ` only, so what follows it decides (R244). -/
theorem raiseProtocolError_keepsSurroundings {α : Type} (e : ProtocolError) (s : State) {k : State → Res α}
    (rest : ∀ s', (k s').KeepsSurroundings s') : (raiseProtocolError e s k).KeepsSurroundings s :=
  Res.Ensures.holdUnless (rest { s with errq := s.errq ++ [e.code] })

theorem parSeekPreamble_keepsSurroundings (i : Nat) (b : Byte) (s : State) :
    (parSeekPreamble i b s).KeepsSurroundings s := by
  unfold parSeekPreamble
  split
  · exact Res.ensures_abort
  · split
    · exact Res.ensures_done.mpr rfl
    · exact raiseProtocolError_keepsSurroundings _ s fun s' => Res.ensures_done.mpr (s'.surroundings_enterRecovery b)

theorem parLengthShort_keepsSurroundings (b : Byte) (s : State) : (parLengthShort b s).KeepsSurroundings s :=
  raiseProtocolError_keepsSurroundings _ s fun s' => Res.ensures_done.mpr (s'.surroundings_enterRecovery b)

theorem parLengthLegal_keepsSurroundings (b : Byte) (s : State) : (parLengthLegal b s).KeepsSurroundings s :=
  Res.Ensures.holdUnless <|
    Res.KeepsSurroundings.bind (s := s) (allocate_keepsSurroundings .parser _) fun h s1 =>
      Res.KeepsSurroundings.bind (s := s1) (storeByte_keepsSurroundings h b _) fun _ _ => Res.ensures_done.mpr rfl

theorem parPayloadData_keepsSurroundings (r : Nat) (b : Byte) (h : Handle) (s : State) :
    (parPayloadData r b h s).KeepsSurroundings s :=
  Res.KeepsSurroundings.bind (s := s) (storeByte_keepsSurroundings h b _) fun _ _ => Res.ensures_done.mpr rfl

theorem parChecksumGood_keepsSurroundings (h : Handle) (s : State) : (parChecksumGood h s).KeepsSurroundings s :=
  Res.KeepsSurroundings.bind (s := s) (opBufClose_keepsSurroundings .parser h _) fun _ _ => Res.ensures_done.mpr rfl

theorem parChecksumBad_keepsSurroundings (b : Byte) (h : Handle) (s : State) :
    (parChecksumBad b h s).KeepsSurroundings s :=
  raiseProtocolError_keepsSurroundings _ s fun s1 =>
    (opPoolFree_keepsSurroundings .parser h s1).bind fun _ s2 =>
      Res.ensures_done.mpr (State.surroundings_enterRecovery { s2 with pcur := none } b)

theorem parReadPayload_keepsSurroundings (r : Nat) (b : Byte) (s : State) :
    (parReadPayload r b s).KeepsSurroundings s := by
  unfold parReadPayload
  split
  · exact Res.ensures_abort
  · exact Res.ensures_abort
  · split
    · exact parChecksumGood_keepsSurroundings _ s
    · exact parChecksumBad_keepsSurroundings b _ s
  · exact parPayloadData_keepsSurroundings _ b _ s

theorem parErrorRecovery_keepsSurroundings (i : Nat) (b : Byte) (s : State) :
    (parErrorRecovery i b s).KeepsSurroundings s := by
  unfold parErrorRecovery
  split
  · exact Res.ensures_done.mpr (State.surroundings_scan { s with pacc := s.pacc ^^^ b } i b)
  · exact Res.ensures_abort

theorem parArm_keepsSurroundings (b : Byte) (s : State) : (parArm b s).KeepsSurroundings s := by
  unfold parArm
  split
  · exact parSeekPreamble_keepsSurroundings _ b s
  · split
    · exact parLengthLegal_keepsSurroundings b s
    · exact parLengthShort_keepsSurroundings b s
  · exact parReadPayload_keepsSurroundings _ b s
  · exact parErrorRecovery_keepsSurroundings _ b s

theorem opParFetch_keepsSurroundings (a : Agent) (s : State) : (opParFetch a s).KeepsSurroundings s := by
  refine Res.Ensures.issuedBy <| Res.Ensures.holdUnless <| Res.Ensures.holdUnless <|
    (opTrNext_keepsSurroundings a s).bind fun r s1 => ?_
  cases r with
  | ok v => exact Res.ensures_done.mpr rfl
  | none => exact Res.ensures_abort
  | full => exact Res.ensures_abort

theorem opParExec_keepsSurroundings (a : Agent) (s : State) : (opParExec a s).KeepsSurroundings s := by
  refine Res.Ensures.issuedBy ?_
  split
  · exact Res.ensures_abort
  · exact (parArm_keepsSurroundings _ s).bind fun _ _ => Res.ensures_done.mpr rfl

/-! #### The Framer -/

theorem sendAndCount_keepsSurroundings (b : Byte) (next : State → FState) (s : State) :
    (sendAndCount b next s).KeepsSurroundings s :=
  (opTrPutb_keepsSurroundings .framer b s).bind fun _ _ => Res.ensures_done.mpr rfl

theorem frmIdle_keepsSurroundings (s : State) : (frmIdle s).KeepsSurroundings s := by
  refine (swapIfReady_keepsSurroundings .egr s).bind fun _ s1 => ?_
  split
  · exact Res.ensures_done.mpr rfl
  · exact Res.Ensures.holdUnless (Res.ensures_done.mpr rfl)

theorem frmPreamble_keepsSurroundings (i : Nat) (h : Handle) (s : State) :
    (frmPreamble i h s).KeepsSurroundings s := by
  unfold frmPreamble
  split
  · exact Res.ensures_abort
  · exact Res.Ensures.holdUnless (sendAndCount_keepsSurroundings _ _ s)

theorem frmPayload_keepsSurroundings (h : Handle) (s : State) : (frmPayload h s).KeepsSurroundings s :=
  Res.Ensures.holdUnless <|
    (opBufRead_keepsSurroundings .framer h s).bind fun _ s1 => sendAndCount_keepsSurroundings _ _ s1

theorem frmChecksum_keepsSurroundings (h : Handle) (s : State) : (frmChecksum h s).KeepsSurroundings s :=
  Res.Ensures.holdUnless <|
    (opTrPutb_keepsSurroundings .framer s.facc s).bind fun _ s1 =>
      Res.KeepsSurroundings.bind (s := s1) (opPoolFree_keepsSurroundings .framer h _) fun _ s2 =>
        Res.KeepsSurroundings.bind (s := s2) (closeAndSwap_keepsSurroundings .egr _).issuedBy fun _ _ =>
          Res.ensures_done.mpr rfl

theorem frmArm_keepsSurroundings (s : State) : (frmArm s).KeepsSurroundings s := by
  unfold frmArm
  split
  · exact frmIdle_keepsSurroundings s
  · exact Res.ensures_abort
  · exact frmPreamble_keepsSurroundings _ _ s
  · exact frmPayload_keepsSurroundings _ s
  · exact frmChecksum_keepsSurroundings _ s

theorem opFrmStep_keepsSurroundings (a : Agent) (s : State) : (opFrmStep a s).KeepsSurroundings s :=
  Res.Ensures.issuedBy <| (frmArm_keepsSurroundings s).bind fun _ _ => Res.ensures_done.mpr rfl

theorem opFrmPost_keepsSurroundings (a : Agent) (h : Handle) (s : State) :
    (opFrmPost a h s).KeepsSurroundings s :=
  Res.Ensures.faultUnless <| Res.Ensures.issuedBy <| Res.Ensures.faultUnless <| Res.Ensures.faultUnless <|
    Res.ensures_done.mpr rfl

/-! #### The host's queues -/

theorem opOutPop_keepsSurroundings (a : Agent) (s : State) : (opOutPop a s).KeepsSurroundings s := by
  refine Res.Ensures.issuedBy ?_
  split
  · exact Res.ensures_abort
  · exact Res.ensures_done.mpr rfl

theorem opErrPop_keepsSurroundings (a : Agent) (s : State) : (opErrPop a s).KeepsSurroundings s := by
  refine Res.Ensures.issuedBy ?_
  split
  · exact Res.ensures_abort
  · exact Res.ensures_done.mpr rfl

/-! ### The rule of each operation (R11)

`exec` is the end of an operation (`respond`) put to its rule; what follows speaks of the rules only. -/

/-- The state an operation starts from: `TR.RXBYTE` finds its byte in the trace already (R43, log entry 7). -/
def entryState : Instr → State → State
  | .trRxbyte b, s => s.received b
  | _, s => s

/-- The rule of an operation, for the port being served. -/
def ruleOf : Instr → State → Res Reply
  | .bufWrite h b, s => opBufWrite s.port h b s
  | .bufPeek h, s => opBufPeek s.port h s
  | .bufRead h, s => opBufRead s.port h s
  | .bufClose h, s => opBufClose s.port h s
  | .bufOpen h, s => opBufOpen s.port h s
  | .bufReset h, s => opBufReset s.port h s
  | .bufIsclosed h, s => opBufIsclosed h s
  | .bufIsempty h, s => opBufIsempty h s
  | .dbWhandle d, s => opDbWhandle d s
  | .dbRhandle d, s => opDbRhandle d s
  | .dbPut d b, s => opDbPut s.port d b s
  | .dbPeek d, s => opDbPeek s.port d s
  | .dbTake d, s => opDbTake s.port d s
  | .dbSwappable d, s => opDbSwappable d s
  | .dbSwap d, s => opDbSwap s.port d s
  | .poolAlloc, s => opPoolAlloc s.port s
  | .poolFree h, s => opPoolFree s.port h s
  | .trNext, s => opTrNext s.port s
  | .trPutb b, s => opTrPutb s.port b s
  | .trFlush, s => opTrFlush s.port s
  | .trRxbyte b, s => opTrRxbyte s.port b s
  | .trRxtmo, s => opTrRxtmo s.port s
  | .trTxbyte, s => opTrTxbyte s.port s
  | .parFetch, s => opParFetch s.port s
  | .parExec, s => opParExec s.port s
  | .frmStep, s => opFrmStep s.port s
  | .frmPost h, s => opFrmPost s.port h s
  | .outPop, s => opOutPop s.port s
  | .errPop, s => opErrPop s.port s
  | .sysReset, s => opSysReset s.port s

theorem exec_eq_respond (i : Instr) (s : State) :
    exec i s = respond (entryState i s) (ruleOf i (entryState i s)) := by
  cases i with
  | trRxbyte b =>
    show respond (s.received b) (opTrRxbyte s.port b (s.received b)) =
      respond (s.received b) (opTrRxbyte (s.received b).port b (s.received b))
    rw [State.received_port]
  | _ => rfl

/-- Only `TR.RXBYTE` starts from another state than it finds. -/
theorem entryState_eq_self {i : Instr} (ne : ∀ b, i ≠ .trRxbyte b) (s : State) : entryState i s = s := by
  cases i with
  | trRxbyte b => exact absurd rfl (ne b)
  | _ => rfl

@[simp] theorem entryState_rsp (i : Instr) (s : State) : (entryState i s).rsp = s.rsp := by
  cases i with
  | trRxbyte b => exact s.received_rsp b
  | _ => rfl

@[simp] theorem entryState_port (i : Instr) (s : State) : (entryState i s).port = s.port := by
  cases i with
  | trRxbyte b => exact s.received_port b
  | _ => rfl

/-! #### The surroundings -/

/-- No rule but that of `SYS.RESET` writes the surroundings. -/
theorem ruleOf_keepsSurroundings {i : Instr} (ne : i ≠ .sysReset) (s : State) :
    (ruleOf i s).KeepsSurroundings s := by
  cases i with
  | bufWrite h b => exact opBufWrite_keepsSurroundings _ h b s
  | bufPeek h => exact opBufPeek_keepsSurroundings _ h s
  | bufRead h => exact opBufRead_keepsSurroundings _ h s
  | bufClose h => exact opBufClose_keepsSurroundings _ h s
  | bufOpen h => exact opBufOpen_keepsSurroundings _ h s
  | bufReset h => exact opBufReset_keepsSurroundings _ h s
  | bufIsclosed h => exact Res.Ensures.faultUnless (Res.ensures_done.mpr rfl)
  | bufIsempty h => exact Res.Ensures.faultUnless (Res.ensures_done.mpr rfl)
  | dbWhandle d => exact Res.ensures_done.mpr rfl
  | dbRhandle d => exact Res.ensures_done.mpr rfl
  | dbPut d b => exact opDbPut_keepsSurroundings _ d b s
  | dbPeek d => exact opDbPeek_keepsSurroundings _ d s
  | dbTake d => exact opDbTake_keepsSurroundings _ d s
  | dbSwappable d => exact Res.ensures_done.mpr rfl
  | dbSwap d => exact opDbSwap_keepsSurroundings _ d s
  | poolAlloc => exact opPoolAlloc_keepsSurroundings _ s
  | poolFree h => exact opPoolFree_keepsSurroundings _ h s
  | trNext => exact opTrNext_keepsSurroundings _ s
  | trPutb b => exact opTrPutb_keepsSurroundings _ b s
  | trFlush => exact (closeAndSwap_keepsSurroundings .egr s).issuedBy
  | trRxbyte b => exact opTrRxbyte_keepsSurroundings _ b s
  | trRxtmo => exact (closeAndSwap_keepsSurroundings .ing s).issuedBy
  | trTxbyte => exact opTrTxbyte_keepsSurroundings _ s
  | parFetch => exact opParFetch_keepsSurroundings _ s
  | parExec => exact opParExec_keepsSurroundings _ s
  | frmStep => exact opFrmStep_keepsSurroundings _ s
  | frmPost h => exact opFrmPost_keepsSurroundings _ h s
  | outPop => exact opOutPop_keepsSurroundings _ s
  | errPop => exact opErrPop_keepsSurroundings _ s
  | sysReset => exact absurd rfl ne

/-- No rule writes the response ports or the port being served: reset leaves them too (R270, log entry 4). -/
theorem ruleOf_keepsPorts (i : Instr) (s : State) :
    (ruleOf i s).Ensures fun _ t => t.rsp = s.rsp ∧ t.port = s.port := by
  by_cases reset : i = .sysReset
  · subst reset
    exact Res.Ensures.issuedBy (Res.ensures_done.mpr ⟨rfl, rfl⟩)
  · intro r t done
    have kept := ruleOf_keepsSurroundings reset s r t done
    exact ⟨congrArg Surroundings.rsp kept, congrArg Surroundings.port kept⟩

/-! #### `NONE` and `FULL` -/

/-- The operation answers `OK`, or it leaves the state `s` as it was (R11). -/
def Res.UnchangedUnlessOk (x : Res Reply) (s : State) : Prop := x.Ensures fun r t => (∃ v, r = .ok v) ∨ t = s

theorem Res.unchangedUnlessOk_done_ok (v : Byte) (t s : State) : (Res.done (.ok v) t).UnchangedUnlessOk s :=
  Res.ensures_done.mpr (.inl ⟨v, rfl⟩)

/-- What comes last in a composite operation decides its answer. -/
theorem Res.unchangedUnlessOk_bind {α : Type} {x : Res α} {k : α → State → Res Reply} {s : State}
    (last : ∀ v s', (k v s').UnchangedUnlessOk s) : (x.bind k).UnchangedUnlessOk s :=
  Ensures.bind (P := fun _ _ => True) (fun _ _ _ => trivial) fun v s' _ => last v s'

theorem opBufWrite_unchangedUnlessOk (a : Agent) (h : Handle) (b : Byte) (s : State) :
    (opBufWrite a h b s).UnchangedUnlessOk s := by
  intro r t e
  obtain ⟨-, -, ⟨-, -, same⟩ | ⟨-, ok, -⟩⟩ := opBufWrite_eq_done.mp e
  · exact .inr same
  · exact .inl ⟨0, ok⟩

theorem opBufPeek_unchangedUnlessOk (a : Agent) (h : Handle) (s : State) :
    (opBufPeek a h s).UnchangedUnlessOk s := by
  intro r t e
  obtain ⟨-, -, same, -⟩ := opBufPeek_eq_done.mp e
  exact .inr same

theorem opBufRead_unchangedUnlessOk (a : Agent) (h : Handle) (s : State) :
    (opBufRead a h s).UnchangedUnlessOk s := by
  intro r t e
  obtain ⟨-, -, ⟨-, -, same⟩ | ⟨-, -, ok, -⟩⟩ := opBufRead_eq_done.mp e
  · exact .inr same
  · exact .inl ⟨_, ok⟩

theorem opDbTake_unchangedUnlessOk (a : Agent) (d : DbSel) (s : State) : (opDbTake a d s).UnchangedUnlessOk s :=
  (opBufRead_unchangedUnlessOk a _ s).issuedBy

theorem closeAndSwap_unchangedUnlessOk (d : DbSel) (s : State) : (closeAndSwap d s).UnchangedUnlessOk s := by
  rw [closeAndSwap_eq]
  exact Res.unchangedUnlessOk_done_ok _ _ _

/-- The `TX` trace grows by an `OK` only (R43). -/
theorem opTrTxbyte_unchangedUnlessOk (a : Agent) (s : State) : (opTrTxbyte a s).UnchangedUnlessOk s := by
  refine Res.Ensures.issuedBy <| Res.Ensures.holdUnless <|
    Res.Ensures.bind (opDbTake_unchangedUnlessOk a .egr s) fun r s' taken => ?_
  cases r with
  | ok v => exact Res.unchangedUnlessOk_done_ok v _ s
  | none => exact Res.ensures_done.mpr taken
  | full => exact Res.ensures_done.mpr taken

theorem opParFetch_unchangedUnlessOk (a : Agent) (s : State) : (opParFetch a s).UnchangedUnlessOk s := by
  refine Res.Ensures.issuedBy <| Res.Ensures.holdUnless <| Res.Ensures.holdUnless <|
    Res.unchangedUnlessOk_bind fun r _ => ?_
  cases r with
  | ok v => exact Res.unchangedUnlessOk_done_ok 0 _ s
  | none => exact Res.ensures_abort
  | full => exact Res.ensures_abort

theorem opParExec_unchangedUnlessOk (a : Agent) (s : State) : (opParExec a s).UnchangedUnlessOk s := by
  refine Res.Ensures.issuedBy ?_
  split
  · exact Res.ensures_abort
  · exact Res.unchangedUnlessOk_bind fun _ _ => Res.unchangedUnlessOk_done_ok 0 _ s

theorem opOutPop_unchangedUnlessOk (a : Agent) (s : State) : (opOutPop a s).UnchangedUnlessOk s := by
  refine Res.Ensures.issuedBy ?_
  split
  · exact Res.ensures_abort
  · exact Res.unchangedUnlessOk_done_ok _ _ s

theorem opErrPop_unchangedUnlessOk (a : Agent) (s : State) : (opErrPop a s).UnchangedUnlessOk s := by
  refine Res.Ensures.issuedBy ?_
  split
  · exact Res.ensures_abort
  · exact Res.unchangedUnlessOk_done_ok _ _ s

/-- `TR.PUTB` that is performed answers `OK`, whatever the put inside it answers (R173, log entry 8). -/
theorem opTrPutb_ok {a : Agent} {b : Byte} {s t : State} {r : Reply} (done : opTrPutb a b s = .done r t) :
    r = .ok 0 := by
  obtain ⟨-, -, ok, -⟩ := opTrPutb_eq_done.mp done
  exact ok

/-- `TR.RXBYTE` that is performed answers `OK`, whatever the put inside it answers (R174, log entry 8). -/
theorem opTrRxbyte_ok {a : Agent} {b : Byte} {s t : State} {r : Reply} (done : opTrRxbyte a b s = .done r t) :
    r = .ok 0 := by
  obtain ⟨-, -, ok, -⟩ := opTrRxbyte_eq_done.mp done
  exact ok

/-- An operation that answers `NONE` or `FULL` performed nothing (R11). -/
theorem ruleOf_unchangedUnlessOk (i : Instr) (s : State) : (ruleOf i s).UnchangedUnlessOk s := by
  have ok := Res.unchangedUnlessOk_done_ok
  cases i with
  | bufWrite h b => exact opBufWrite_unchangedUnlessOk _ h b s
  | bufPeek h => exact opBufPeek_unchangedUnlessOk _ h s
  | bufRead h => exact opBufRead_unchangedUnlessOk _ h s
  | bufClose h => exact (ok _ _ s).faultUnless.faultUnless
  | bufOpen h => exact (ok _ _ s).faultUnless.faultUnless
  | bufReset h => exact (ok _ _ s).faultUnless.faultUnless
  | bufIsclosed h => exact (ok _ _ s).faultUnless
  | bufIsempty h => exact (ok _ _ s).faultUnless
  | dbWhandle d => exact ok _ _ s
  | dbRhandle d => exact ok _ _ s
  | dbPut d b => exact (opBufWrite_unchangedUnlessOk _ _ b s).issuedBy
  | dbPeek d => exact (opBufPeek_unchangedUnlessOk _ _ s).issuedBy
  | dbTake d => exact opDbTake_unchangedUnlessOk _ d s
  | dbSwappable d => exact ok _ _ s
  | dbSwap d => exact (ok _ _ s).faultUnless.issuedBy
  | poolAlloc => exact Res.unchangedUnlessOk_bind fun _ _ => ok _ _ s
  | poolFree h => exact (ok _ _ s).faultUnless.faultUnless
  | trNext => exact (opDbTake_unchangedUnlessOk _ .ing s).holdUnless.issuedBy
  | trPutb b => exact fun _ _ done => .inl ⟨0, opTrPutb_ok done⟩
  | trFlush => exact (closeAndSwap_unchangedUnlessOk .egr s).issuedBy
  | trRxbyte b => exact fun _ _ done => .inl ⟨0, opTrRxbyte_ok done⟩
  | trRxtmo => exact (closeAndSwap_unchangedUnlessOk .ing s).issuedBy
  | trTxbyte => exact opTrTxbyte_unchangedUnlessOk _ s
  | parFetch => exact opParFetch_unchangedUnlessOk _ s
  | parExec => exact opParExec_unchangedUnlessOk _ s
  | frmStep => exact Res.Ensures.issuedBy (Res.unchangedUnlessOk_bind fun _ _ => ok _ _ s)
  | frmPost h => exact (ok _ _ s).faultUnless.faultUnless.issuedBy.faultUnless
  | outPop => exact opOutPop_unchangedUnlessOk _ s
  | errPop => exact opErrPop_unchangedUnlessOk _ s
  | sysReset => exact (ok _ _ s).issuedBy

theorem ruleOf_unchanged {i : Instr} {s t : State} {r : Reply} (done : ruleOf i s = .done r t)
    (notOk : ∀ v, r ≠ .ok v) : t = s :=
  (ruleOf_unchangedUnlessOk i s r t done).resolve_left fun ⟨v, ok⟩ => notOk v ok

/-! #### `TR.RXBYTE` never holds (R174) -/

/-- The operation does not end in `HOLD`. -/
def Res.NeverHolds {α : Type} (x : Res α) : Prop := x ≠ .abort .hold

theorem Res.neverHolds_done {α : Type} (v : α) (s : State) : (Res.done v s).NeverHolds := fun e => nomatch e

theorem Res.NeverHolds.bind {α β : Type} {x : Res α} {k : α → State → Res β} (first : x.NeverHolds)
    (rest : ∀ v s, (k v s).NeverHolds) : (x.bind k).NeverHolds := by
  intro e
  obtain held | ⟨v, s, -, held⟩ := Res.bind_eq_abort.mp e
  · exact first held
  · exact rest v s held

theorem Res.NeverHolds.faultUnless {α : Type} {c : Prop} [Decidable c] {f : FaultName} {x : Res α}
    (h : x.NeverHolds) : (faultUnless c f x).NeverHolds := by
  unfold Machine.faultUnless
  split
  · exact h
  · exact fun e => nomatch e

theorem memWrite_neverHolds (h : Handle) (i : Nat) (b : Byte) (s : State) : (memWrite h i b s).NeverHolds := by
  unfold memWrite
  split
  · exact Res.neverHolds_done _ _
  · exact fun e => nomatch e

theorem opBufWrite_neverHolds (a : Agent) (h : Handle) (b : Byte) (s : State) : (opBufWrite a h b s).NeverHolds := by
  refine Res.NeverHolds.faultUnless <| Res.NeverHolds.faultUnless ?_
  split
  · exact (memWrite_neverHolds _ _ _ _).bind fun _ _ => Res.neverHolds_done _ _
  · exact Res.neverHolds_done _ _

theorem opDbPut_neverHolds (a : Agent) (d : DbSel) (b : Byte) (s : State) : (opDbPut a d b s).NeverHolds :=
  (opBufWrite_neverHolds a _ b s).faultUnless

theorem opDbSwap_neverHolds (a : Agent) (d : DbSel) (s : State) : (opDbSwap a d s).NeverHolds :=
  Res.NeverHolds.faultUnless <| Res.NeverHolds.faultUnless <| Res.neverHolds_done _ _

theorem swapIfReady_neverHolds (d : DbSel) (s : State) : (swapIfReady d s).NeverHolds := by
  rw [swapIfReady_swappedIf]
  exact Res.neverHolds_done _ _

theorem opTrRxbyte_neverHolds (a : Agent) (b : Byte) (s : State) : (opTrRxbyte a b s).NeverHolds := by
  refine Res.NeverHolds.faultUnless <| Res.NeverHolds.bind ?_ fun _ s1 =>
    (opDbPut_neverHolds a .ing b s1).bind fun _ s2 =>
      (swapIfReady_neverHolds .ing s2).bind fun _ _ => Res.neverHolds_done _ _
  split
  · exact Res.NeverHolds.faultUnless <| (opDbSwap_neverHolds a .ing s).bind fun _ _ => Res.neverHolds_done _ _
  · exact Res.neverHolds_done _ _

/-! ### The five outcomes (R11) -/

/-- The response on the port served is `OK`. -/
def AnswersOk (s t : State) : Prop := ∃ v, t.rsp = s.rsp.set s.port (rspWord 0x00 v)

/-- The answer to a performed operation stands on the port it came from, next to the other ports' words. -/
theorem answersOk_of_ruleOf {i : Instr} {s s' : State} {v : Byte}
    (done : ruleOf i (entryState i s) = .done (.ok v) s') : AnswersOk s (s'.answer (Reply.ok v).word) := by
  obtain ⟨rsp, port⟩ := ruleOf_keepsPorts i (entryState i s) _ _ done
  refine ⟨v, ?_⟩
  show s'.rsp.set s'.port (Reply.ok v).word = s.rsp.set s.port (Reply.ok v).word
  rw [rsp, port, entryState_rsp, entryState_port]

/-- An operation other than `TR.RXBYTE` answers `OK`, or it leaves what it found but for the response and, with a
fault, that fault's bit (R11, R257). -/
theorem exec_outcome {i : Instr} {s t : State} (other : ∀ b, i ≠ .trRxbyte b) (run : exec i s = .next t) :
    AnswersOk s t ∨ t = s.answer Reply.none.word ∨ t = s.answer Reply.full.word ∨ t = s.answer holdWord ∨
      ∃ f, t = takeFault s f := by
  have entry := entryState_eq_self other s
  rw [exec_eq_respond, respond_eq_next] at run
  obtain ⟨r, s', done, rfl⟩ | ⟨-, rfl⟩ | ⟨f, -, rfl⟩ := run
  · cases r with
    | ok v => exact .inl (answersOk_of_ruleOf done)
    | none => exact .inr (.inl (by rw [ruleOf_unchanged done nofun, entry]))
    | full => exact .inr (.inr (.inl (by rw [ruleOf_unchanged done nofun, entry])))
  · exact .inr (.inr (.inr (.inl (by rw [entry]))))
  · exact .inr (.inr (.inr (.inr ⟨f, by rw [entry]⟩)))

/-- `TR.RXBYTE` answers `OK` or faults, and with a fault the byte may stand in the trace (R174, log entry 7). -/
theorem exec_trRxbyte_outcome {b : Byte} {s t : State} (run : exec (.trRxbyte b) s = .next t) :
    AnswersOk s t ∨ ∃ f, t = takeFault (s.received b) f := by
  rw [exec_eq_respond, respond_eq_next] at run
  obtain ⟨r, s', done, rfl⟩ | ⟨held, -⟩ | ⟨f, -, rfl⟩ := run
  · obtain rfl := opTrRxbyte_ok done
    exact .inl (answersOk_of_ruleOf done)
  · exact absurd held (opTrRxbyte_neverHolds _ _ _)
  · exact .inr ⟨f, rfl⟩

theorem FaultName.bit_lt (f : FaultName) : f.bit < 6 := by cases f <;> decide

theorem State.received_rx (s : State) (b : Byte) : (s.received b).rx = s.rx ∨ (s.received b).rx = s.rx ++ [b] := by
  unfold State.received
  split
  · exact .inr rfl
  · exact .inl rfl

theorem takeFault_received (s : State) (b : Byte) (f : FaultName) :
    takeFault (s.received b) f =
      { s with rx := (s.received b).rx, fault := s.fault ||| f.mask, rsp := s.rsp.set s.port f.word } := by
  unfold State.received
  split <;> rfl

/-- Settles O7: `TR.RXBYTE` apart, an operation that is not performed works on the state it finds. -/
theorem outcomesChangeOnlyWhatTheyMay : Obligations.OutcomesChangeOnlyWhatTheyMay := by
  intro i s t run
  by_cases link : ∃ b, i = .trRxbyte b
  · obtain ⟨b, rfl⟩ := link
    obtain ok | ⟨f, rfl⟩ := exec_trRxbyte_outcome run
    · exact .inl ok
    · refine .inr <| .inr <| .inr <| .inr
        ⟨f.bit, f.bit_lt, (s.received b).rx, takeFault_received s b f, ?_⟩
      exact (s.received_rx b).imp_right fun grown => ⟨b, rfl, grown⟩
  · obtain ok | none | full | hold | ⟨f, rfl⟩ := exec_outcome (fun b e => link ⟨b, e⟩) run
    · exact .inl ok
    · exact .inr (.inl none)
    · exact .inr (.inr (.inl full))
    · exact .inr (.inr (.inr (.inl hold)))
    · exact .inr (.inr (.inr (.inr ⟨f.bit, f.bit_lt, s.rx, takeFault_eq s f, .inl rfl⟩)))

end Sys2Proof.Machine

/-! PROOFS of the state's statements (10_state.md): what the operations write (O49, O52), the reset values (O46, O48,
O53), and the two invariants (O54, O55). -/

namespace Sys2Proof.Machine

/-! ### The storage of the Buffers (R20 to R25, R52)

The clauses of `State.Inv` on the register sets and the memory, with one rule for each way they are written. -/

/-- The registers of a Buffer in a list of register sets. -/
def bufAt (bufs : List Buf) (h : Handle) : Buf := (bufs[bufIndex h]?).getD Buf.empty

/-- The clauses of `State.Inv` on the Buffers' registers and the storage. -/
structure StorageFits (c : Config) (bufs : List Buf) (mem : Memory) : Prop where
  count : bufs.length = 4 + c.poolSize
  cursors : ∀ h, isLegalHandle c h → (bufAt bufs h).get ≤ (bufAt bufs h).put ∧ (bufAt bufs h).put ≤ capOf c h
  written : ∀ h i, isLegalHandle c h → i < (bufAt bufs h).put → (mem.read (addr h i)).isSome = true
  canonical : mem.wf = true
  inside : ∀ x ∈ mem, ∃ h i, (isLegalHandle c h ∧ i < capOf c h) ∧ x.1 = addr h i

/-- The Buffers' registers and the storage of a state fit each other. -/
abbrev State.StorageOk (s : State) : Prop := StorageFits s.cfg s.bufs s.mem

theorem State.buf_eq_bufAt (s : State) (h : Handle) : s.buf h = bufAt s.bufs h := rfl

/-- Writing the registers of one Buffer leaves those of the others. -/
theorem State.buf_setBuf_other {s : State} {h h' : Handle} (b : Buf) (l : isLegalHandle s.cfg h)
    (l' : isLegalHandle s.cfg h') (ne : h' ≠ h) : (s.setBuf h b).buf h' = s.buf h' := by
  simp only [State.buf, State.setBuf]
  rw [List.getElem?_set_ne fun e => ne (bufIndex_inj l' l e.symm)]

/-- New registers fit when their cursors are in order and nothing more is claimed to be written (R21, R25). -/
theorem StorageFits.setBuf {s : State} {h : Handle} {b : Buf} (fits : s.StorageOk) (l : isLegalHandle s.cfg h)
    (order : b.get ≤ b.put) (shorter : b.put ≤ (s.buf h).put) : (s.setBuf h b).StorageOk := by
  have after (h') (l' : isLegalHandle s.cfg h') := State.buf_setBuf b fits.count l l'
  constructor
  case count => exact (List.length_set ..).trans fits.count
  case cursors =>
    intro h' l'
    rw [← State.buf_eq_bufAt, after h' l']
    split
    case isTrue e => subst e; exact ⟨order, shorter.trans (fits.cursors _ l').2⟩
    case isFalse => exact fits.cursors h' l'
  case written =>
    intro h' i l' lt
    rw [← State.buf_eq_bufAt, after h' l'] at lt
    split at lt
    case isTrue e => subst e; exact fits.written _ i l' (lt.trans_le shorter)
    case isFalse => exact fits.written h' i l' lt
  case canonical => exact fits.canonical
  case inside => exact fits.inside

/-- The registers of the Buffers after a byte is stored (R120). -/
theorem State.buf_stored {s : State} {h h' : Handle} (byte : Byte) (len : s.bufs.length = 4 + s.cfg.poolSize)
    (l : isLegalHandle s.cfg h) (l' : isLegalHandle s.cfg h') :
    (s.stored h byte).buf h' = if h' = h then (s.buf h).pushed (s.cap h) else s.buf h' :=
  State.buf_setBuf (s := { s with mem := s.mem.write (addr h (s.buf h).put) byte }) _ len l l'

/-- A byte stored in a writable Buffer: what is new is written, at an address that exists (R25, R52). -/
theorem StorageFits.stored {s : State} {h : Handle} (byte : Byte) (fits : s.StorageOk) (l : isLegalHandle s.cfg h)
    (room : (s.buf h).Writable (s.cap h)) : (s.stored h byte).StorageOk := by
  have after (h') (l' : isLegalHandle s.cfg h') := State.buf_stored byte fits.count l l'
  constructor
  case count => exact (List.length_set ..).trans fits.count
  case cursors =>
    intro h' l'
    rw [← State.buf_eq_bufAt, after h' l']
    split
    case isTrue e => subst e; exact ⟨Nat.le_succ_of_le (fits.cursors _ l').1, room.2⟩
    case isFalse => exact fits.cursors h' l'
  case written =>
    intro h' i l' lt
    rw [← State.buf_eq_bufAt, after h' l'] at lt
    show ((s.mem.write (addr h (s.buf h).put) byte).read (addr h' i)).isSome = true
    rw [Memory.read_write]
    split
    case isTrue => rfl
    case isFalse ne =>
      refine fits.written h' i l' ?_
      split at lt
      case isTrue e =>
        subst e
        exact (Nat.lt_succ_iff.mp lt).lt_of_ne fun e => ne (by rw [e])
      case isFalse => exact lt
  case canonical => exact Memory.write_wf _ _ fits.canonical
  case inside =>
    intro x hx
    obtain rfl | hx := Memory.mem_write hx
    · exact ⟨h, _, ⟨l, room.2⟩, rfl⟩
    · exact fits.inside x hx

/-! ### What a Buffer operation does (R120 to R125) -/

/-- What an operation on the one Buffer `h` does where agent `a` performs it: it writes the registers of that Buffer
and storage, and keeps what the invariant says of them. -/
structure BufferStep (a : Agent) (h : Handle) (s t : State) : Prop where
  legal : isLegalHandle s.cfg h
  owned : s.agentOwning h = some a
  frame : t = { s with bufs := t.bufs, mem := t.mem }
  buffers : BuffersKept [h] s t
  storage : s.StorageOk → t.StorageOk

theorem BufferStep.same {a : Agent} {h : Handle} {s : State} (l : isLegalHandle s.cfg h)
    (o : s.agentOwning h = some a) : BufferStep a h s s := ⟨l, o, rfl, fun _ _ _ => rfl, id⟩

theorem BufferStep.setBuf {a : Agent} {h : Handle} {s : State} {b : Buf} (l : isLegalHandle s.cfg h)
    (o : s.agentOwning h = some a) (fit : s.StorageOk → b.get ≤ b.put ∧ b.put ≤ (s.buf h).put) :
    BufferStep a h s (s.setBuf h b) where
  legal := l
  owned := o
  frame := rfl
  buffers _ l' ne := State.buf_setBuf_other b l l' (by simpa using ne)
  storage fits := fits.setBuf l (fit fits).1 (fit fits).2

theorem BufferStep.stored {a : Agent} {h : Handle} {s : State} (byte : Byte) (l : isLegalHandle s.cfg h)
    (o : s.agentOwning h = some a) (room : (s.buf h).Writable (s.cap h)) :
    BufferStep a h s (s.stored h byte) where
  legal := l
  owned := o
  frame := rfl
  buffers _ l' ne :=
    State.buf_setBuf_other (s := { s with mem := s.mem.write (addr h (s.buf h).put) byte }) _ l l' (by simpa using ne)
  storage fits := fits.stored byte l room

theorem opBufWrite_bufferStep (a : Agent) (h : Handle) (b : Byte) (s : State) :
    (opBufWrite a h b s).Ensures fun _ t => BufferStep a h s t := by
  intro r t e
  obtain ⟨l, o, ⟨-, -, rfl⟩ | ⟨room, -, rfl⟩⟩ := opBufWrite_eq_done.mp e
  · exact .same l o
  · exact .stored b l o room

theorem opBufPeek_bufferStep (a : Agent) (h : Handle) (s : State) :
    (opBufPeek a h s).Ensures fun _ t => BufferStep a h s t := by
  intro r t e
  obtain ⟨l, o, rfl, -⟩ := opBufPeek_eq_done.mp e
  exact .same l o

theorem opBufRead_bufferStep (a : Agent) (h : Handle) (s : State) :
    (opBufRead a h s).Ensures fun _ t => BufferStep a h s t := by
  intro r t e
  obtain ⟨l, o, ⟨-, -, rfl⟩ | ⟨unread, -, -, rfl⟩⟩ := opBufRead_eq_done.mp e
  · exact .same l o
  · exact .setBuf l o fun _ => ⟨not_le.mp unread, le_rfl⟩

theorem opBufClose_bufferStep (a : Agent) (h : Handle) (s : State) :
    (opBufClose a h s).Ensures fun _ t => BufferStep a h s t := by
  intro r t e
  obtain ⟨l, o, -, rfl⟩ := opBufClose_eq_done.mp e
  exact .setBuf l o fun fits => ⟨(fits.cursors h l).1, le_rfl⟩

theorem opBufOpen_bufferStep (a : Agent) (h : Handle) (s : State) :
    (opBufOpen a h s).Ensures fun _ t => BufferStep a h s t := by
  intro r t e
  obtain ⟨l, o, -, rfl⟩ := opBufOpen_eq_done.mp e
  exact .setBuf l o fun fits => ⟨(fits.cursors h l).1, le_rfl⟩

theorem opBufReset_bufferStep (a : Agent) (h : Handle) (s : State) :
    (opBufReset a h s).Ensures fun _ t => BufferStep a h s t := by
  intro r t e
  obtain ⟨l, o, -, rfl⟩ := opBufReset_eq_done.mp e
  exact .setBuf l o fun _ => ⟨le_rfl, Nat.zero_le _⟩

/-! ### What an operation on a pair does (R140 to R147, R170 to R177) -/

/-- What an operation on the pair `d` does where it is performed: it writes the two Buffers of the pair, storage and the
selector, and keeps what the two invariants say of them. -/
structure PairStep (d : DbSel) (s t : State) : Prop where
  frame : t = { s with bufs := t.bufs, mem := t.mem, awIng := t.awIng, awEgr := t.awEgr }
  selector : ∀ d', d' ≠ d → t.aw d' = s.aw d'
  buffers : ∀ h, isLegalHandle s.cfg h → (∀ a, h ≠ slotHandle d a) → t.buf h = s.buf h
  storage : s.StorageOk → t.StorageOk
  pair : s.cfg.Valid → s.StorageOk → PairFits s d → PairFits t d

section PairSteps

variable {d : DbSel} {s t u : State}

theorem PairStep.same : PairStep d s s := ⟨rfl, fun _ _ => rfl, fun _ _ _ => rfl, id, fun _ _ => id⟩

theorem PairStep.cfg (x : PairStep d s t) : t.cfg = s.cfg := by rw [x.frame]

theorem PairStep.trans (x : PairStep d s t) (y : PairStep d t u) : PairStep d s u where
  frame := y.frame.trans (by rw [x.frame])
  selector d' ne := (y.selector d' ne).trans (x.selector d' ne)
  buffers h l ne := (y.buffers h (x.cfg ▸ l) ne).trans (x.buffers h l ne)
  storage fits := y.storage (x.storage fits)
  pair valid fits pair := y.pair (x.cfg ▸ valid) (x.storage fits) (x.pair valid fits pair)

/-- An operation on one Buffer of the pair is one on the pair, if it keeps what the pair's invariant says. -/
theorem BufferStep.pairStep {a : Agent} {b : Bool} (x : BufferStep a (slotHandle d b) s t)
    (pair : s.StorageOk → PairFits s d → PairFits t d) : PairStep d s t where
  frame := by rw [x.frame]
  selector d' _ := by rw [x.frame]; rfl
  buffers h l ne := x.buffers h l (by simpa using ne b)
  storage := x.storage
  pair _ fits := pair fits

@[simp] theorem State.setBuf_wh (s : State) (h : Handle) (b : Buf) (d : DbSel) : (s.setBuf h b).wh d = s.wh d := rfl

@[simp] theorem State.setBuf_rh (s : State) (h : Handle) (b : Buf) (d : DbSel) : (s.setBuf h b).rh d = s.rh d := rfl

/-- What a pair's invariant says of the pair's own Buffers, selector and capacity is all it depends on. -/
theorem PairFits.of_kept (pair : PairFits s d) (cfg : t.cfg = s.cfg) (aw : t.aw d = s.aw d)
    (bufs : ∀ a, t.buf (slotHandle d a) = s.buf (slotHandle d a)) : PairFits t d := by
  have wh : t.wh d = s.wh d := congrArg (slotHandle d) aw
  have rh : t.rh d = s.rh d := congrArg (fun a => slotHandle d !a) aw
  have write : t.buf (t.wh d) = s.buf (s.wh d) := by rw [wh]; exact bufs _
  have read : t.buf (t.rh d) = s.buf (s.rh d) := by rw [rh]; exact bufs _
  have cap : t.cap (t.wh d) = s.cap (s.wh d) := by rw [State.cap, cfg, wh]; rfl
  constructor
  case openReadEmpty => rw [read]; exact pair.openReadEmpty
  case closedReadHolds => rw [read]; exact pair.closedReadHolds
  case openWriteRoom => rw [write, cap]; exact pair.openWriteRoom
  case closedWriteHolds => rw [write]; exact pair.closedWriteHolds
  case writeUnread => rw [write]; exact pair.writeUnread

/-- New registers of the write buffer: unread, with room while it is open, not empty once it is closed. -/
theorem PairFits.setWrite {b : Buf} (len : s.bufs.length = 4 + s.cfg.poolSize) (pair : PairFits s d)
    (unread : b.get = 0) (room : b.closed = false → b.put < s.cap (s.wh d)) (holds : b.closed = true → 0 < b.put) :
    PairFits (s.setBuf (s.wh d) b) d := by
  have write := State.buf_setBuf_same b len (s.wh_legal d)
  have read := State.buf_setBuf_other b (s.wh_legal d) (s.rh_legal d) (s.wh_ne_rh d).symm
  constructor
  case openReadEmpty => rw [State.setBuf_rh, read]; exact pair.openReadEmpty
  case closedReadHolds => rw [State.setBuf_rh, read]; exact pair.closedReadHolds
  case openWriteRoom => rw [State.setBuf_wh, write]; exact room
  case closedWriteHolds => rw [State.setBuf_wh, write]; exact holds
  case writeUnread => rw [State.setBuf_wh, write]; exact unread

/-- New registers of the read buffer: closed exactly while a byte is unread. -/
theorem PairFits.setRead {b : Buf} (len : s.bufs.length = 4 + s.cfg.poolSize) (pair : PairFits s d)
    (drained : b.closed = false → b.Empty) (holds : b.closed = true → ¬ b.Empty) :
    PairFits (s.setBuf (s.rh d) b) d := by
  have read := State.buf_setBuf_same b len (s.rh_legal d)
  have write := State.buf_setBuf_other b (s.rh_legal d) (s.wh_legal d) (s.wh_ne_rh d)
  constructor
  case openReadEmpty => rw [State.setBuf_rh, read]; exact drained
  case closedReadHolds => rw [State.setBuf_rh, read]; exact holds
  case openWriteRoom => rw [State.setBuf_wh, write]; exact pair.openWriteRoom
  case closedWriteHolds => rw [State.setBuf_wh, write]; exact pair.closedWriteHolds
  case writeUnread => rw [State.setBuf_wh, write]; exact pair.writeUnread

/-- A Buffer of a valid configuration holds a byte (R6). -/
theorem capOf_pos {c : Config} (valid : c.Valid) (h : Handle) : 0 < capOf c h := by
  obtain ⟨-, -, -, -, -, ing, egr, -, -, pool, -⟩ := valid
  unfold capOf
  split
  · exact ing
  · split
    · exact egr
    · exact pool

/-- A swap (R147): the closed write buffer becomes the read buffer, and the other one is empty and open. -/
theorem PairStep.swapped (ready : s.Swappable d) : PairStep d s (s.swapped d) where
  frame := by cases d <;> rfl
  selector _ ne := s.swapped_aw_other ne
  buffers h l ne :=
    (State.buf_setBuf_other (s := s.flipAw d) _ (by cases d <;> exact s.rh_legal _) (by cases d <;> exact l)
      (ne (!s.aw d))).trans (by cases d <;> rfl)
  storage fits := by
    have flipped : (s.flipAw d).StorageOk := by cases d <;> exact fits
    exact flipped.setBuf (by cases d <;> exact s.rh_legal _) le_rfl (Nat.zero_le _)
  pair valid fits pair := by
    have write : (s.swapped d).buf (s.rh d) = Buf.empty := by
      rw [State.buf_swapped fits.count (s.rh_legal d), if_pos rfl]
    have read : (s.swapped d).buf (s.wh d) = s.buf (s.wh d) := by
      rw [State.buf_swapped fits.count (s.wh_legal d), if_neg (s.wh_ne_rh d)]
    have unread : ¬ (s.buf (s.wh d)).Empty := by
      have := pair.closedWriteHolds ready.2
      have := pair.writeUnread
      unfold Buf.Empty
      omega
    constructor
    case openReadEmpty => rw [State.swapped_rh, read, ready.2]; exact nofun
    case closedReadHolds => rw [State.swapped_rh, read]; exact fun _ => unread
    case openWriteRoom =>
      rw [State.swapped_wh, write]
      intro _
      show 0 < capOf (s.swapped d).cfg _
      rw [State.swapped_cfg]
      exact capOf_pos valid _
    case closedWriteHolds => rw [State.swapped_wh, write]; exact nofun
    case writeUnread => rw [State.swapped_wh, write]; rfl

theorem PairStep.swappedIf (d : DbSel) (s : State) : PairStep d s (s.swappedIf d) := by
  unfold State.swappedIf
  split
  case isTrue ready => exact .swapped ready
  case isFalse => exact .same

theorem PairStep.readyToPut (ready : (s.buf (s.wh d)).closed = true → s.Swappable d) :
    PairStep d s (s.readyToPut d) := by
  unfold State.readyToPut
  split
  case isTrue closed => exact .swapped (ready closed)
  case isFalse => exact .same

end PairSteps

/-- A put (R143): the write buffer closes when it is full, so an open one keeps room. -/
theorem opDbPut_pairStep (a : Agent) (d : DbSel) (b : Byte) (s : State) :
    (opDbPut a d b s).Ensures fun _ t => PairStep d s t := by
  intro r t e
  obtain ⟨-, put⟩ := opDbPut_eq_done.mp e
  refine BufferStep.pairStep (opBufWrite_bufferStep a _ b s r t put) fun fits pair => ?_
  obtain ⟨-, -, ⟨-, -, rfl⟩ | ⟨⟨opened, room⟩, -, rfl⟩⟩ := opBufWrite_eq_done.mp put
  · exact pair
  · have written : PairFits { s with mem := s.mem.write (addr (s.wh d) (s.buf (s.wh d)).put) b } d :=
      pair.of_kept rfl rfl fun _ => rfl
    refine written.setWrite (b := (s.buf (s.wh d)).pushed (s.cap (s.wh d))) fits.count pair.writeUnread ?_ ?_
    · simp only [Buf.pushed, opened, Bool.false_or, decide_eq_false_iff_not]
      exact fun notFull => lt_of_le_of_ne room notFull
    · exact fun _ => Nat.succ_pos _

theorem opDbPeek_pairStep (a : Agent) (d : DbSel) (s : State) :
    (opDbPeek a d s).Ensures fun _ t => PairStep d s t := by
  intro r t e
  obtain ⟨-, peek⟩ := opDbPeek_eq_done.mp e
  obtain ⟨-, -, rfl, -⟩ := opBufPeek_eq_done.mp peek
  exact .same

/-- A take (R145): an unread read buffer is closed, and the take that drains it opens it. -/
theorem opDbTake_pairStep (a : Agent) (d : DbSel) (s : State) :
    (opDbTake a d s).Ensures fun _ t => PairStep d s t := by
  intro r t e
  obtain ⟨-, take⟩ := opDbTake_eq_done.mp e
  refine BufferStep.pairStep (opBufRead_bufferStep a _ s r t take) fun fits pair => ?_
  obtain ⟨-, -, ⟨-, -, rfl⟩ | ⟨unread, -, -, rfl⟩⟩ := opBufRead_eq_done.mp take
  · exact pair
  · have closed : (s.buf (s.rh d)).closed = true := by
      by_contra opened
      exact unread (pair.openReadEmpty (by simpa using opened))
    refine pair.setRead fits.count ?_ ?_ <;> simp [Buf.popped, closed]

theorem opDbSwap_pairStep (a : Agent) (d : DbSel) (s : State) :
    (opDbSwap a d s).Ensures fun _ t => PairStep d s t := by
  intro r t e
  obtain ⟨-, ready, -, rfl⟩ := opDbSwap_eq_done.mp e
  exact .swapped ready

/-- The close of a write buffer that holds a byte, then a swap where one is possible (R175, R176). -/
theorem PairStep.pushedOut (d : DbSel) (s : State) : PairStep d s (s.pushedOut d) := by
  unfold State.pushedOut
  refine PairStep.trans ?_ (.swappedIf d _)
  split
  case isTrue partly =>
    have closes : BufferStep (producer d) (s.wh d) s (s.setBuf (s.wh d) { s.buf (s.wh d) with closed := true }) :=
      .setBuf (s.wh_legal d) (s.agentOwning_wh d) fun fits => ⟨(fits.cursors _ (s.wh_legal d)).1, le_rfl⟩
    exact closes.pairStep fun fits pair => pair.setWrite fits.count pair.writeUnread nofun fun _ => partly.2
  case isFalse => exact .same

theorem closeAndSwap_pairStep (d : DbSel) (s : State) : (closeAndSwap d s).Ensures fun _ t => PairStep d s t := by
  rw [closeAndSwap_eq]
  exact Res.ensures_done.mpr (.pushedOut d s)

theorem opTrNext_pairStep (a : Agent) (s : State) : (opTrNext a s).Ensures fun _ t => PairStep .ing s t :=
  (opDbTake_pairStep a .ing s).holdUnless.issuedBy

/-- A send (R173) swaps a closed write buffer only where that is possible: the guard says so. -/
theorem opTrPutb_pairStep (a : Agent) (b : Byte) (s : State) :
    (opTrPutb a b s).Ensures fun _ t => PairStep .egr s t := by
  intro r t e
  obtain ⟨-, can, -, r', s', put, rfl⟩ := opTrPutb_eq_done.mp e
  have ready : (s.buf (s.wh .egr)).closed = true → s.Swappable .egr := fun closed =>
    can.resolve_left (by simp [closed])
  exact ((PairStep.readyToPut ready).trans (opDbPut_pairStep _ _ _ _ _ _ put)).trans (.swappedIf _ _)

theorem opTrRxbyte_pairStep (a : Agent) (b : Byte) (s : State) :
    (opTrRxbyte a b s).Ensures fun _ t => PairStep .ing s t := by
  intro r t e
  obtain ⟨-, ready, -, r', s', put, rfl⟩ := opTrRxbyte_eq_done.mp e
  exact ((PairStep.readyToPut ready).trans (opDbPut_pairStep _ _ _ _ _ _ put)).trans (.swappedIf _ _)

/-! ### What each operation works on -/

/-- What an operation works on, where that is nothing, one Buffer or one pair. -/
inductive Target where
  | nothing
  | buffer (h : Handle)
  | pair (d : DbSel)
  | more

/-- The target of each operation; a composite transport operation works on its pair. -/
def targetOf : Instr → Target
  | .bufIsclosed _ | .bufIsempty _ | .dbWhandle _ | .dbRhandle _ | .dbSwappable _ => .nothing
  | .bufWrite h _ | .bufPeek h | .bufRead h | .bufClose h | .bufOpen h | .bufReset h => .buffer h
  | .dbPut d _ | .dbPeek d | .dbTake d | .dbSwap d => .pair d
  | .trNext | .trRxbyte _ | .trRxtmo => .pair .ing
  | .trPutb _ | .trFlush => .pair .egr
  | .poolAlloc | .poolFree _ | .trTxbyte | .parFetch | .parExec | .frmStep | .frmPost _ | .outPop | .errPop
  | .sysReset => .more

/-- What an operation with that target does where agent `a` performs it. -/
def Target.Step : Target → Agent → State → State → Prop
  | .nothing, _, s, t => t = s
  | .buffer h, a, s, t => BufferStep a h s t
  | .pair d, _, s, t => PairStep d s t
  | .more, _, _, _ => True

theorem ruleOf_targetStep (i : Instr) (s : State) :
    (ruleOf i s).Ensures fun _ t => (targetOf i).Step s.port s t := by
  cases i with
  | bufWrite h b => exact opBufWrite_bufferStep _ h b s
  | bufPeek h => exact opBufPeek_bufferStep _ h s
  | bufRead h => exact opBufRead_bufferStep _ h s
  | bufClose h => exact opBufClose_bufferStep _ h s
  | bufOpen h => exact opBufOpen_bufferStep _ h s
  | bufReset h => exact opBufReset_bufferStep _ h s
  | bufIsclosed h => exact Res.Ensures.faultUnless (Res.ensures_done.mpr rfl)
  | bufIsempty h => exact Res.Ensures.faultUnless (Res.ensures_done.mpr rfl)
  | dbWhandle d => exact Res.ensures_done.mpr rfl
  | dbRhandle d => exact Res.ensures_done.mpr rfl
  | dbPut d b => exact opDbPut_pairStep _ d b s
  | dbPeek d => exact opDbPeek_pairStep _ d s
  | dbTake d => exact opDbTake_pairStep _ d s
  | dbSwappable d => exact Res.ensures_done.mpr rfl
  | dbSwap d => exact opDbSwap_pairStep _ d s
  | trNext => exact opTrNext_pairStep _ s
  | trPutb b => exact opTrPutb_pairStep _ b s
  | trFlush => exact (closeAndSwap_pairStep .egr s).issuedBy
  | trRxbyte b => exact opTrRxbyte_pairStep _ b s
  | trRxtmo => exact (closeAndSwap_pairStep .ing s).issuedBy
  | _ => exact fun _ _ _ => trivial

/-- An operation on nothing, one Buffer or one pair: what it writes at most, and that the storage stays well-formed. -/
structure StorageStep (s t : State) : Prop where
  frame : t = { s with bufs := t.bufs, mem := t.mem, awIng := t.awIng, awEgr := t.awEgr }
  storage : s.StorageOk → t.StorageOk

theorem BufferStep.storageStep {a : Agent} {h : Handle} {s t : State} (x : BufferStep a h s t) : StorageStep s t :=
  ⟨by rw [x.frame], x.storage⟩

theorem PairStep.storageStep {d : DbSel} {s t : State} (x : PairStep d s t) : StorageStep s t := ⟨x.frame, x.storage⟩

theorem ruleOf_storageStep {i : Instr} (few : targetOf i ≠ .more) (s : State) :
    (ruleOf i s).Ensures fun _ t => StorageStep s t := by
  intro r t done
  have step := ruleOf_targetStep i s r t done
  revert step few
  cases targetOf i with
  | nothing => rintro - rfl; exact ⟨rfl, id⟩
  | buffer h => exact fun _ step => step.storageStep
  | pair d => exact fun _ step => step.storageStep
  | more => exact fun few _ => absurd rfl few

/-! ### What a turn of the Parser does (R192 to R200) -/

/-- The state with the code of a protocol error at the end of `ERRQ` (R244). -/
def State.reported (s : State) (e : ProtocolError) : State := { s with errq := s.errq ++ [e.code] }

/-- The state with the free Buffer `POOL[p]` opened for a frame whose length byte is `b` (R195). -/
def State.opened (s : State) (b : Byte) (p : Nat) : State :=
  { ({ s with pacc := s.pacc ^^^ b } : State).allocated .parser p with pcur := some (poolHandle p) }

/-- The state with the byte `b` of the frame at hand stored in its Buffer `h` (R196). -/
def State.filled (s : State) (h : Handle) (b : Byte) (r : Nat) : State :=
  { ({ s with pacc := s.pacc ^^^ b } : State).stored h b with pstate := .readPayload r }

/-- The state with the Buffer `h` closed and queued for the host (R196). -/
def State.accepted (s : State) (h : Handle) : State :=
  { (({ s with pacc := 0 } : State).setBuf h { s.buf h with closed := true }).setOwner h .inQOut with
    qOut := s.qOut ++ [h], pcur := none, pstate := .seekPreamble 0 }

/-- The state with a bad checksum reported and the Buffer `h` given back (R198). -/
def State.rejected (s : State) (h : Handle) : State :=
  { (s.reported .checksumMismatch).setOwner h .free with avail := s.avail + 1, pcur := none }

/-- Everything a turn of the Parser can do with the byte `b` where it is performed: one case for each end of an arm. -/
inductive ParserStep (b : Byte) (s : State) : State → Prop
  | matched {i : Nat} (state : s.pstate = .seekPreamble i) (byte : s.cfg.pre[i]? = some b) :
    ParserStep b s { s with
      pacc := s.pacc ^^^ b, pstate := if i + 1 = s.cfg.k then .readLength else .seekPreamble (i + 1) }
  | mismatched {i : Nat} {p : Byte} (state : s.pstate = .seekPreamble i) (byte : s.cfg.pre[i]? = some p)
    (room : s.errq.length < s.cfg.errqDepth) :
    ParserStep b s (enterRecovery b (s.reported (.preambleMismatch i)))
  | tooShort (state : s.pstate = .readLength) (room : s.errq.length < s.cfg.errqDepth) :
    ParserStep b s (enterRecovery b (s.reported .frameTooShort))
  | started {p : Nat} (state : s.pstate = .readLength) (length : legalLength s.cfg b) (avail : 0 < s.avail)
    (free : pickFree s.owner s.pick = some p)
    (room : ((s.opened b p).buf (poolHandle p)).Writable ((s.opened b p).cap (poolHandle p))) :
    ParserStep b s
      { (s.opened b p).stored (poolHandle p) b with pstate := .readPayload (remainingAfter s.cfg b) }
  | filled {r : Nat} {h : Handle} (state : s.pstate = .readPayload (r + 2)) (cur : s.pcur = some h)
    (owned : s.agentOwning h = some .parser) (room : (s.buf h).Writable (s.cap h)) :
    ParserStep b s (s.filled h b (r + 1))
  | accepted {h : Handle} (state : s.pstate = .readPayload 1) (cur : s.pcur = some h)
    (owned : s.agentOwning h = some .parser) : ParserStep b s (s.accepted h)
  | rejected {h : Handle} (state : s.pstate = .readPayload 1) (cur : s.pcur = some h)
    (held : s.ownerOf h = some .heldParser) (room : s.errq.length < s.cfg.errqDepth) :
    ParserStep b s (enterRecovery b (s.rejected h))
  | scanned {i : Nat} (state : s.pstate = .errorRecovery i) :
    ParserStep b s (scan i b { s with pacc := s.pacc ^^^ b })

/-- Where a report is made, what follows it is done on the state with the code in `ERRQ`. -/
theorem raiseProtocolError_ensures {e : ProtocolError} {s : State} {k : State → Res Unit} {P : State → Prop}
    (rest : s.errq.length < s.cfg.errqDepth → (k (s.reported e)).Ensures fun _ t => P t) :
    (raiseProtocolError e s k).Ensures fun _ t => P t := by
  intro v t done
  obtain ⟨room, done⟩ := raiseProtocolError_eq_done.mp done
  exact rest room v t done

theorem parSeekPreamble_step {i : Nat} {b : Byte} {s : State} (state : s.pstate = .seekPreamble i) :
    (parSeekPreamble i b s).Ensures fun _ t => ParserStep b s t := by
  unfold parSeekPreamble
  split
  case h_1 => exact Res.ensures_abort
  case h_2 p byte =>
    split
    case isTrue same => exact Res.ensures_done.mpr (.matched state (same ▸ byte))
    case isFalse => exact raiseProtocolError_ensures fun room => Res.ensures_done.mpr (.mismatched state byte room)

theorem parLengthShort_step {b : Byte} {s : State} (state : s.pstate = .readLength) :
    (parLengthShort b s).Ensures fun _ t => ParserStep b s t :=
  raiseProtocolError_ensures fun room => Res.ensures_done.mpr (.tooShort state room)

theorem parLengthLegal_step {b : Byte} {s : State} (state : s.pstate = .readLength) (length : legalLength s.cfg b) :
    (parLengthLegal b s).Ensures fun _ t => ParserStep b s t := by
  intro u t done
  obtain ⟨avail, done⟩ := holdUnless_eq_done.mp done
  obtain ⟨h, s1, alloc, done⟩ := Res.bind_eq_done.mp done
  obtain ⟨-, -, p, free, rfl, rfl⟩ := allocate_eq_done.mp alloc
  obtain ⟨_, s2, store, done⟩ := Res.bind_eq_done.mp done
  obtain ⟨-, -, room, rfl⟩ := storeByte_eq_done.mp store
  obtain ⟨-, rfl⟩ := Res.done_eq_done.mp done
  exact .started state length avail free room

theorem parPayloadData_step {r : Nat} {b : Byte} {h : Handle} {s : State} (state : s.pstate = .readPayload (r + 2))
    (cur : s.pcur = some h) : (parPayloadData (r + 2) b h s).Ensures fun _ t => ParserStep b s t := by
  intro u t done
  obtain ⟨_, s1, store, done⟩ := Res.bind_eq_done.mp done
  obtain ⟨-, owned, room, rfl⟩ := storeByte_eq_done.mp store
  obtain ⟨-, rfl⟩ := Res.done_eq_done.mp done
  exact .filled state cur owned room

theorem parChecksumGood_step {b : Byte} {h : Handle} {s : State} (state : s.pstate = .readPayload 1)
    (cur : s.pcur = some h) : (parChecksumGood h s).Ensures fun _ t => ParserStep b s t := by
  intro u t done
  obtain ⟨_, s1, close, done⟩ := Res.bind_eq_done.mp done
  obtain ⟨-, owned, -, rfl⟩ := opBufClose_eq_done.mp close
  obtain ⟨-, rfl⟩ := Res.done_eq_done.mp done
  exact .accepted state cur owned

theorem parChecksumBad_step {b : Byte} {h : Handle} {s : State} (state : s.pstate = .readPayload 1)
    (cur : s.pcur = some h) : (parChecksumBad b h s).Ensures fun _ t => ParserStep b s t := by
  refine raiseProtocolError_ensures fun room u t done => ?_
  obtain ⟨_, s1, free, done⟩ := Res.bind_eq_done.mp done
  obtain ⟨-, ⟨-, held⟩, -, rfl⟩ := opPoolFree_eq_done.mp free
  obtain ⟨-, rfl⟩ := Res.done_eq_done.mp done
  exact .rejected state cur held room

theorem parReadPayload_step {r : Nat} {b : Byte} {s : State} (state : s.pstate = .readPayload r) :
    (parReadPayload r b s).Ensures fun _ t => ParserStep b s t := by
  cases cur : s.pcur with
  | none =>
    unfold parReadPayload
    rw [cur]
    rcases r with _ | _ | r <;> exact Res.ensures_abort
  | some h =>
    rcases r with _ | _ | r
    · exact Res.ensures_abort
    · unfold parReadPayload
      rw [cur]
      show (if checksumGood s.pacc b then parChecksumGood h s else parChecksumBad b h s).Ensures _
      split
      · exact parChecksumGood_step state cur
      · exact parChecksumBad_step state cur
    · unfold parReadPayload
      rw [cur]
      exact parPayloadData_step state cur

theorem parErrorRecovery_step {i : Nat} {b : Byte} {s : State} (state : s.pstate = .errorRecovery i) :
    (parErrorRecovery i b s).Ensures fun _ t => ParserStep b s t := by
  unfold parErrorRecovery
  split
  · exact Res.ensures_done.mpr (.scanned state)
  · exact Res.ensures_abort

theorem parArm_step (b : Byte) (s : State) : (parArm b s).Ensures fun _ t => ParserStep b s t := by
  unfold parArm
  split
  case h_1 i state => exact parSeekPreamble_step state
  case h_2 state =>
    split
    case isTrue length => exact parLengthLegal_step state length
    case isFalse => exact parLengthShort_step state
  case h_3 r state => exact parReadPayload_step state
  case h_4 i state => exact parErrorRecovery_step state

/-- `PAR.EXEC` (R192) takes the latched byte through one turn and empties the latch. -/
theorem opParExec_ensures (a : Agent) (s : State) :
    (opParExec a s).Ensures fun _ t => ∃ b s', ParserStep b s s' ∧ t = { s' with platch := none } := by
  refine Res.Ensures.issuedBy ?_
  split
  · exact Res.ensures_abort
  · exact (parArm_step _ s).bind fun _ s' step => Res.ensures_done.mpr ⟨_, s', step, rfl⟩

/-- `PAR.FETCH` (R191) is a take with the byte kept in the latch. -/
theorem opParFetch_ensures (a : Agent) (s : State) :
    (opParFetch a s).Ensures fun _ t => ∃ v s', PairStep .ing s s' ∧ t = { s' with platch := some v } := by
  refine Res.Ensures.issuedBy <| Res.Ensures.holdUnless <| Res.Ensures.holdUnless <|
    (opTrNext_pairStep a s).bind fun r s' step => ?_
  cases r with
  | ok v => exact Res.ensures_done.mpr ⟨v, s', step, rfl⟩
  | none => exact Res.ensures_abort
  | full => exact Res.ensures_abort

/-! ### What a turn of the Framer does (R220 to R224) -/

/-- The state with a Buffer taken from `Q_IN` for sending (R221). -/
def State.popped (s : State) (h : Handle) (rest : List Handle) : State :=
  { s.setOwner h .heldFramer with qIn := rest, fcur := some h, facc := 0, fstate := .preamble 0 }

/-- The state with the byte `b` counted as sent (R222, R223). -/
def State.counted (s : State) (b : Byte) (next : FState) : State := { s with facc := s.facc ^^^ b, fstate := next }

/-- The state with the Buffer `h` sent and given back (R224). -/
def State.finished (s : State) (h : Handle) : State :=
  { s.setOwner h .free with avail := s.avail + 1, facc := 0, fcur := none, fstate := .idle }

/-- An operation on a pair does not look at the Framer's state register. -/
theorem PairStep.withFstate {d : DbSel} {s t : State} (x : PairStep d s t) (f : FState) :
    PairStep d { s with fstate := f } { t with fstate := f } where
  frame := by rw [x.frame]
  selector := x.selector
  buffers := x.buffers
  storage := x.storage
  pair valid fits pair :=
    have before : PairFits s d := pair.of_kept rfl rfl fun _ => rfl
    (x.pair valid fits before).of_kept rfl rfl fun _ => rfl

/-- Everything a turn of the Framer can do where it is performed; `PairStep` stands for a `TR.PUTB` or a swap. -/
inductive FramerStep (s : State) : State → Prop
  | swapped {s' : State} (state : s.fstate = .idle) (swap : PairStep .egr s s') : FramerStep s s'
  | popped {h : Handle} {rest : List Handle} {s' : State} (state : s.fstate = .idle) (swap : PairStep .egr s s')
    (queue : s.qIn = h :: rest) : FramerStep s (s'.popped h rest)
  | preamble {i : Nat} {h : Handle} {p : Byte} {s' : State} (state : s.fstate = .preamble i) (cur : s.fcur = some h)
    (byte : s.cfg.pre[i]? = some p) (sent : PairStep .egr s s') :
    FramerStep s (s'.counted p (if i + 1 < s.cfg.k then .preamble (i + 1) else payloadOrChecksum h s'))
  | payload {h : Handle} {b : Byte} {s1 s' : State} (state : s.fstate = .payload) (cur : s.fcur = some h)
    (read : BufferStep .framer h s s1) (sent : PairStep .egr s1 s') :
    FramerStep s (s'.counted b (payloadOrChecksum h s'))
  | checksum {h : Handle} {s1 s' : State} (state : s.fstate = .checksum) (cur : s.fcur = some h)
    (sent : PairStep .egr s s1) (held : s1.ownerOf h = some .heldFramer) (pushed : PairStep .egr (s1.finished h) s') :
    FramerStep s s'

theorem sendAndCount_ensures (b : Byte) (next : State → FState) (s : State) :
    (sendAndCount b next s).Ensures fun _ t => ∃ s', PairStep .egr s s' ∧ t = s'.counted b (next s') := by
  intro u t done
  obtain ⟨r, s', sent, rfl⟩ := sendAndCount_eq_done.mp done
  exact ⟨s', opTrPutb_pairStep _ _ _ _ _ sent, rfl⟩

theorem frmIdle_step {s : State} (state : s.fstate = .idle) : (frmIdle s).Ensures fun _ t => FramerStep s t := by
  have swap := PairStep.swappedIf .egr s
  have queue : (s.swappedIf .egr).qIn = s.qIn := by rw [swap.frame]
  unfold frmIdle
  rw [swapIfReady_swappedIf, Res.bind_done]
  split
  case h_1 h rest e => exact Res.ensures_done.mpr (.popped state swap (queue.symm.trans e))
  case h_2 => exact Res.Ensures.holdUnless (Res.ensures_done.mpr (.swapped state swap))

theorem frmPreamble_step {i : Nat} {h : Handle} {s : State} (state : s.fstate = .preamble i) (cur : s.fcur = some h) :
    (frmPreamble i h s).Ensures fun _ t => FramerStep s t := by
  unfold frmPreamble
  split
  case h_1 => exact Res.ensures_abort
  case h_2 p byte =>
    refine Res.Ensures.holdUnless fun u t done => ?_
    obtain ⟨s', sent, rfl⟩ := sendAndCount_ensures _ _ _ _ _ done
    exact .preamble state cur byte sent

theorem frmPayload_step {h : Handle} {s : State} (state : s.fstate = .payload) (cur : s.fcur = some h) :
    (frmPayload h s).Ensures fun _ t => FramerStep s t := by
  refine Res.Ensures.holdUnless <| (opBufRead_bufferStep .framer h s).bind fun r s1 read u t done => ?_
  obtain ⟨s', sent, rfl⟩ := sendAndCount_ensures _ _ _ _ _ done
  exact .payload state cur read sent

theorem frmChecksum_step {h : Handle} {s : State} (state : s.fstate = .checksum) (cur : s.fcur = some h) :
    (frmChecksum h s).Ensures fun _ t => FramerStep s t := by
  refine Res.Ensures.holdUnless <| (opTrPutb_pairStep .framer _ s).bind fun _ s1 sent u t done => ?_
  obtain ⟨_, s2, free, done⟩ := Res.bind_eq_done.mp done
  obtain ⟨-, ⟨-, held⟩, -, rfl⟩ := opPoolFree_eq_done.mp free
  obtain ⟨_, s3, flush, done⟩ := Res.bind_eq_done.mp done
  obtain ⟨-, rfl⟩ := Res.done_eq_done.mp done
  have pushed := (closeAndSwap_pairStep .egr _).issuedBy _ _ flush
  exact .checksum state cur sent held (pushed.withFstate .idle)

theorem frmArm_step (s : State) : (frmArm s).Ensures fun _ t => FramerStep s t := by
  unfold frmArm
  split
  case h_1 state => exact frmIdle_step state
  case h_2 => exact Res.ensures_abort
  case h_3 i h state cur => exact frmPreamble_step state cur
  case h_4 h state cur => exact frmPayload_step state cur
  case h_5 h state cur => exact frmChecksum_step state cur

theorem opFrmStep_ensures (a : Agent) (s : State) : (opFrmStep a s).Ensures fun _ t => FramerStep s t :=
  Res.Ensures.issuedBy <| (frmArm_step s).bind fun _ _ step => Res.ensures_done.mpr step

/-! ### What the other operations do -/

/-- `TR.TXBYTE` (R177) is a take with the byte at the end of the trace. -/
theorem opTrTxbyte_ensures (a : Agent) (s : State) :
    (opTrTxbyte a s).Ensures fun _ t => ∃ sent s', PairStep .egr s s' ∧ t = { s' with tx := sent } := by
  refine Res.Ensures.issuedBy <| Res.Ensures.holdUnless <|
    (opDbTake_pairStep a .egr s).bind fun r s' step => Res.ensures_done.mpr ?_
  cases r with
  | ok v => exact ⟨s'.tx ++ [v], s', step, rfl⟩
  | none => exact ⟨s'.tx, s', step, rfl⟩
  | full => exact ⟨s'.tx, s', step, rfl⟩

/-- `POOL.ALLOC` (R161) takes a Buffer that is free. -/
theorem opPoolAlloc_ensures (a : Agent) (s : State) :
    (opPoolAlloc a s).Ensures fun _ t => 0 < s.avail ∧ ∃ p, s.owner[p]? = some .free ∧ t = s.allocated a p := by
  intro r t done
  obtain ⟨h, s', alloc, done⟩ := Res.bind_eq_done.mp done
  obtain ⟨-, avail, p, pick, -, rfl⟩ := allocate_eq_done.mp alloc
  obtain ⟨-, rfl⟩ := Res.done_eq_done.mp done
  exact ⟨avail, p, pickFree_some pick, rfl⟩

/-- `FRM.POST` (R226) queues a closed Buffer of the host. -/
theorem opFrmPost_ensures (a : Agent) (h : Handle) (s : State) :
    (opFrmPost a h s).Ensures fun _ t => isPoolHandle s.cfg h ∧ s.ownerOf h = some .heldHost ∧
      (s.buf h).closed = true ∧ t = { s.setOwner h .inQIn with qIn := s.qIn ++ [h] } := by
  intro r t done
  obtain ⟨l, done⟩ := faultUnless_eq_done.mp done
  obtain ⟨-, done⟩ := issuedBy_eq_done.mp done
  obtain ⟨held, done⟩ := faultUnless_eq_done.mp done
  obtain ⟨closed, done⟩ := faultUnless_eq_done.mp done
  obtain ⟨-, rfl⟩ := Res.done_eq_done.mp done
  exact ⟨l, held, closed, rfl⟩

/-- `OUT.POP` (R203) gives the oldest Buffer of the queue to the host. -/
theorem opOutPop_ensures (a : Agent) (s : State) :
    (opOutPop a s).Ensures fun _ t =>
      ∃ h rest, s.qOut = h :: rest ∧ t = { s.setOwner h .heldHost with qOut := rest } := by
  refine Res.Ensures.issuedBy ?_
  split
  · exact Res.ensures_abort
  · exact Res.ensures_done.mpr ⟨_, _, ‹_›, rfl⟩

/-- `ERR.POP` (R204) removes the oldest code. -/
theorem opErrPop_ensures (a : Agent) (s : State) :
    (opErrPop a s).Ensures fun _ t => ∃ e rest, s.errq = e :: rest ∧ t = { s with errq := rest } := by
  refine Res.Ensures.issuedBy ?_
  split
  · exact Res.ensures_abort
  · exact Res.ensures_done.mpr ⟨_, _, ‹_›, rfl⟩

/-! ### Which operations write the sequencers, the latch, the queues and the traces (O52, R30 to R43) -/

/-- The registers of R30 to R43 but for `RX`, which a command writes before its rule starts (log entry 7). -/
structure Control where
  pstate : PState
  pacc : Byte
  pcur : Option Handle
  platch : Option Byte
  fstate : FState
  facc : Byte
  fcur : Option Handle
  qOut : List Handle
  qIn : List Handle
  errq : List Byte
  tx : List Byte

/-- The control registers of a state. -/
def State.control (s : State) : Control :=
  ⟨s.pstate, s.pacc, s.pcur, s.platch, s.fstate, s.facc, s.fcur, s.qOut, s.qIn, s.errq, s.tx⟩

/-- `old` with the registers that the operation may write as they are in `new`. -/
def controlAfter (i : Instr) (old new : Control) : Control :=
  match i with
  | .parExec => { old with
      pstate := new.pstate, pacc := new.pacc, pcur := new.pcur, platch := new.platch, qOut := new.qOut,
      errq := new.errq }
  | .parFetch => { old with platch := new.platch }
  | .frmStep => { old with fstate := new.fstate, facc := new.facc, fcur := new.fcur, qIn := new.qIn }
  | .frmPost _ => { old with qIn := new.qIn }
  | .outPop => { old with qOut := new.qOut }
  | .errPop => { old with errq := new.errq }
  | .trTxbyte => { old with tx := new.tx }
  | .sysReset => new
  | _ => old

theorem StorageStep.control {s t : State} (x : StorageStep s t) : t.control = s.control := by rw [x.frame]; rfl

theorem PairStep.control {d : DbSel} {s t : State} (x : PairStep d s t) : t.control = s.control :=
  x.storageStep.control

theorem ParserStep.control {b : Byte} {s t : State} (x : ParserStep b s t) :
    t.control = { s.control with
      pstate := t.pstate, pacc := t.pacc, pcur := t.pcur, qOut := t.qOut, errq := t.errq } := by
  cases x with
  | matched | started | filled | accepted => rfl
  | mismatched | tooShort | rejected => rw [enterRecovery_eq]; rfl
  | scanned => rw [scan_eq]; rfl

theorem FramerStep.control {s t : State} (x : FramerStep s t) :
    t.control = { s.control with fstate := t.fstate, facc := t.facc, fcur := t.fcur, qIn := t.qIn } := by
  cases x with
  | swapped _ swap => rw [swap.frame]; rfl
  | popped _ swap => rw [swap.frame]; rfl
  | preamble _ _ _ sent => rw [sent.frame]; rfl
  | payload _ _ read sent => rw [sent.frame, read.frame]; rfl
  | checksum _ _ sent _ pushed => rw [pushed.frame, sent.frame]; rfl

/-- No rule writes more of these registers than its operation is listed for. -/
theorem ruleOf_control (i : Instr) (s : State) :
    (ruleOf i s).Ensures fun _ t => t.control = controlAfter i s.control t.control := by
  intro r t done
  cases i with
  | parExec =>
    obtain ⟨b, s', step, rfl⟩ := opParExec_ensures _ _ _ _ done
    exact congrArg (fun c : Control => { c with platch := none }) step.control
  | parFetch =>
    obtain ⟨v, s', step, rfl⟩ := opParFetch_ensures _ _ _ _ done
    exact congrArg (fun c : Control => { c with platch := some v }) step.control
  | frmStep => exact (opFrmStep_ensures _ _ _ _ done).control
  | frmPost h =>
    obtain ⟨-, -, -, rfl⟩ := opFrmPost_ensures _ _ _ _ _ done
    rfl
  | outPop =>
    obtain ⟨h, rest, -, rfl⟩ := opOutPop_ensures _ _ _ _ done
    rfl
  | errPop =>
    obtain ⟨e, rest, -, rfl⟩ := opErrPop_ensures _ _ _ _ done
    rfl
  | trTxbyte =>
    obtain ⟨sent, s', step, rfl⟩ := opTrTxbyte_ensures _ _ _ _ done
    exact congrArg (fun c : Control => { c with tx := sent }) step.control
  | poolAlloc =>
    obtain ⟨-, p, -, rfl⟩ := opPoolAlloc_ensures _ _ _ _ done
    rfl
  | poolFree h =>
    obtain ⟨-, -, -, rfl⟩ := opPoolFree_eq_done.mp done
    rfl
  | sysReset => rfl
  | _ => exact (ruleOf_storageStep (by simp [targetOf]) s _ _ done).control

@[simp] theorem entryState_control (i : Instr) (s : State) : (entryState i s).control = s.control := by
  cases i with
  | trRxbyte b =>
    show (s.received b).control = s.control
    unfold State.received
    split <;> rfl
  | _ => rfl

@[simp] theorem entryState_cfg (i : Instr) (s : State) : (entryState i s).cfg = s.cfg := by
  cases i with
  | trRxbyte b => exact s.received_cfg b
  | _ => rfl

theorem controlAfter_self (i : Instr) (c : Control) : controlAfter i c c = c := by cases i <;> rfl

theorem exec_control {i : Instr} {s t : State} (run : exec i s = .next t) :
    t.control = controlAfter i s.control t.control := by
  rw [exec_eq_respond, respond_eq_next] at run
  obtain ⟨r, s', done, rfl⟩ | ⟨-, rfl⟩ | ⟨f, -, rfl⟩ := run
  · have written := ruleOf_control i _ r s' done
    rwa [entryState_control] at written
  · have same : ((entryState i s).answer holdWord).control = s.control := entryState_control i s
    rw [same, controlAfter_self]
  · have same : (takeFault (entryState i s) f).control = s.control := entryState_control i s
    rw [same, controlAfter_self]

theorem exec_cfg {i : Instr} {s t : State} (run : exec i s = .next t) : t.cfg = s.cfg := by
  rw [exec_eq_respond, respond_eq_next] at run
  obtain ⟨r, s', done, rfl⟩ | ⟨-, rfl⟩ | ⟨f, -, rfl⟩ := run
  · rw [State.answer_cfg, ← entryState_cfg i s]
    by_cases reset : i = .sysReset
    · subst reset
      obtain ⟨-, done⟩ := issuedBy_eq_done.mp done
      obtain ⟨-, rfl⟩ := Res.done_eq_done.mp done
      rfl
    · exact congrArg Surroundings.cfg (ruleOf_keepsSurroundings reset _ r s' done)
  · exact entryState_cfg i s
  · exact entryState_cfg i s

/-- Only `TR.RXBYTE` and reset write the `RX` trace (R43). -/
theorem exec_rx {i : Instr} {s t : State} (run : exec i s = .next t) (other : ∀ b, i ≠ .trRxbyte b)
    (ne : i ≠ .sysReset) : t.rx = s.rx := by
  rw [exec_eq_respond, respond_eq_next, entryState_eq_self other] at run
  obtain ⟨r, s', done, rfl⟩ | ⟨-, rfl⟩ | ⟨f, -, rfl⟩ := run
  · exact congrArg Surroundings.rx (ruleOf_keepsSurroundings ne _ r s' done)
  · rfl
  · rfl

/-- The rows of `controlAfter`, register by register. -/
theorem controlAfter_kept {i : Instr} (ne : i ≠ .sysReset) (old new : Control) :
    (i ≠ .parExec → (controlAfter i old new).pstate = old.pstate ∧ (controlAfter i old new).pacc = old.pacc ∧
      (controlAfter i old new).pcur = old.pcur) ∧
    (i ≠ .parExec → i ≠ .parFetch → (controlAfter i old new).platch = old.platch) ∧
    (i ≠ .frmStep → (controlAfter i old new).fstate = old.fstate ∧ (controlAfter i old new).facc = old.facc ∧
      (controlAfter i old new).fcur = old.fcur) ∧
    (i ≠ .parExec → i ≠ .outPop → (controlAfter i old new).qOut = old.qOut) ∧
    (i ≠ .frmStep → (∀ h, i ≠ .frmPost h) → (controlAfter i old new).qIn = old.qIn) ∧
    (i ≠ .parExec → i ≠ .errPop → (controlAfter i old new).errq = old.errq) ∧
    (i ≠ .trTxbyte → (controlAfter i old new).tx = old.tx) := by
  cases i with
  | sysReset => exact absurd rfl ne
  | _ => simp [controlAfter]

/-- Settles O52: what an operation leaves is `controlAfter` of what it found, and `controlAfter_kept` reads its rows. -/
theorem onlyTheirOperationsWriteThem : Obligations.OnlyTheirOperationsWriteThem := by
  intro i s t run
  refine ⟨exec_cfg run, fun ne => ?_⟩
  have kept := controlAfter_kept ne s.control t.control
  rw [← exec_control run] at kept
  obtain ⟨parser, latch, framer, qOut, qIn, errq, tx⟩ := kept
  exact ⟨parser, latch, framer, qOut, qIn, errq, fun other => exec_rx run other ne, tx⟩

/-! ### Faults (O48, O49, R44, R257) -/

/-- Settles O48: the six masks and response words. -/
theorem takingAFaultSetsItsBit : Obligations.TakingAFaultSetsItsBit := fun s =>
  ⟨takeFault_eq s .swap, takeFault_eq s .rxOverrun, takeFault_eq s .payloadOverflow, takeFault_eq s .ownership,
    takeFault_eq s .postOpen, takeFault_eq s .reserved⟩

/-- Every bit of `FAULT` that is set in `s` is set in `t`. -/
def FaultKept (s t : State) : Prop := s.fault &&& t.fault = s.fault

theorem FaultKept.of_eq {s t : State} (e : t.fault = s.fault) : FaultKept s t := by
  rw [FaultKept, e, BitVec.and_self]

theorem takeFault_faultKept (s : State) (f : FaultName) : FaultKept s (takeFault s f) := by
  show s.fault &&& (s.fault ||| f.mask) = s.fault
  ext i
  simp +contextual

/-- The rule of an operation leaves `FAULT` as it is, but for a reset by the host. -/
theorem ruleOf_fault {i : Instr} {s : State} (noReset : i = .sysReset → s.port ≠ .host) :
    (ruleOf i s).Ensures fun _ t => t.fault = s.fault := by
  intro r t done
  by_cases reset : i = .sysReset
  · subst reset
    obtain ⟨host, -⟩ := issuedBy_eq_done.mp done
    exact absurd (List.mem_singleton.mp host) (noReset rfl)
  · exact congrArg Surroundings.fault (ruleOf_keepsSurroundings reset s r t done)

@[simp] theorem entryState_fault (i : Instr) (s : State) : (entryState i s).fault = s.fault := by
  cases i with
  | trRxbyte b => exact s.received_fault b
  | _ => rfl

theorem exec_faultKept {i : Instr} {s t : State} (run : exec i s = .next t)
    (noReset : i = .sysReset → s.port ≠ .host) : FaultKept s t := by
  rw [exec_eq_respond, respond_eq_next] at run
  have entry : (entryState i s).fault = s.fault := entryState_fault i s
  obtain ⟨r, s', done, rfl⟩ | ⟨-, rfl⟩ | ⟨f, -, rfl⟩ := run
  · exact .of_eq ((ruleOf_fault (by simpa using noReset) r s' done).trans entry)
  · exact .of_eq entry
  · have kept := takeFault_faultKept (entryState i s) f
    rwa [FaultKept, entry] at kept

/-- What a step is: nothing, the reset input, the execution of a command or the rejection of a reserved word (R9). -/
theorem step_cases {s t : State} (run : step s = .next t) :
    t = s ∨ (∃ rest, s.pending = .rst :: rest ∧ t = resetInput s rest) ∨
      ∃ a w n rest, s.pending = .command a w n :: rest ∧
        ((∃ i, decode s.cfg w = .ok i ∧ exec i (s.serve a n rest) = .next t) ∨ t = rejectWord (s.serve a n rest)) := by
  unfold step at run
  split at run
  case isFalse => cases run
  case isTrue =>
    split at run
    case h_1 => injection run with e; exact .inl e.symm
    case h_2 rest waits => injection run with e; exact .inr (.inl ⟨rest, waits, e.symm⟩)
    case h_3 a w n rest waits =>
      refine .inr (.inr ⟨a, w, n, rest, waits, ?_⟩)
      split at run
      case h_1 i decoded => exact .inl ⟨i, decoded, run⟩
      case h_2 => injection run with e; exact .inr e.symm

/-- Settles O49: an operation adds at most one bit, and `SYS.RESET` is performed on the host's port only. -/
theorem faultIsStickyUntilReset : Obligations.FaultIsStickyUntilReset := by
  intro s t run noRst noReset
  obtain rfl | ⟨rest, waits, -⟩ | ⟨a, w, n, rest, waits, ⟨i, decoded, run⟩ | rfl⟩ := step_cases run
  · exact FaultKept.of_eq rfl
  · exact absurd waits (noRst rest)
  · refine exec_faultKept (s := s.serve a n rest) run ?_
    rintro rfl rfl
    exact noReset w n rest waits decoded
  · exact takeFault_faultKept (s.serve a n rest) .reserved

/-! ### The pool and its queues (R28, R29, R40, R41)

A pool Buffer moves from one owner to the next; the rules say what each move does to a queue and to `avail`. -/

theorem poolIndex_lt {c : Config} {h : Handle} (l : isPoolHandle c h) : poolIndex h < c.poolSize := by
  unfold poolIndex
  omega

theorem poolIndex_inj {c : Config} {h h' : Handle} (l : isPoolHandle c h) (l' : isPoolHandle c h')
    (e : poolIndex h = poolIndex h') : h = h' := by
  rw [← poolHandle_poolIndex l, ← poolHandle_poolIndex l', e]

theorem poolHandle_toNat {p : Nat} (lt : p < 224) : (poolHandle p).toNat = 0x10 + p := by
  simp only [poolHandle, BitVec.toNat_ofNat]
  omega

theorem poolSize_le {c : Config} : c.Valid → c.poolSize ≤ 224 := fun ⟨_, _, _, _, _, _, _, _, le, _⟩ => le

section Pool

variable {c : Config} {owners : List Owner} {q : List Handle} {h h' : Handle} {o o₁ o₂ : Owner}

/-- The owners after one Buffer changes hands. -/
theorem owner_set (len : owners.length = c.poolSize) (l : isPoolHandle c h) (l' : isPoolHandle c h') :
    (owners.set (poolIndex h) o)[poolIndex h']? = if h' = h then some o else owners[poolIndex h']? := by
  rw [List.getElem?_set]
  by_cases e : h' = h
  · subst e
    simp [len, poolIndex_lt l]
  · rw [if_neg e, if_neg fun e' => e (poolIndex_inj l' l e'.symm)]

/-- A Buffer that changes hands outside a queue's owner value leaves the queue right. -/
theorem QueueFits.other (fits : QueueFits c owners q o) (len : owners.length = c.poolSize) (l : isPoolHandle c h)
    (before : owners[poolIndex h]? = some o₁) (ne₁ : o₁ ≠ o) (ne₂ : o₂ ≠ o) :
    QueueFits c (owners.set (poolIndex h) o₂) q o where
  nodup := fits.nodup
  owned h' mem := by
    obtain ⟨l', owned⟩ := fits.owned h' mem
    refine ⟨l', ?_⟩
    rw [owner_set len l l', if_neg, owned]
    rintro rfl
    rw [before] at owned
    exact ne₁ (Option.some.inj owned)
  all h' l' owned := by
    rw [owner_set len l l'] at owned
    split at owned
    · exact absurd (Option.some.inj owned) ne₂
    · exact fits.all h' l' owned

/-- A Buffer that gets a queue's owner value goes to the end of the queue. -/
theorem QueueFits.push (fits : QueueFits c owners q o) (len : owners.length = c.poolSize) (l : isPoolHandle c h)
    (before : owners[poolIndex h]? = some o₁) (ne : o₁ ≠ o) :
    QueueFits c (owners.set (poolIndex h) o) (q ++ [h]) o where
  nodup := by
    refine List.nodup_append.mpr ⟨fits.nodup, List.nodup_singleton h, ?_⟩
    rintro x mem y hy rfl
    obtain rfl := List.mem_singleton.mp hy
    have owned := (fits.owned _ mem).2
    rw [before] at owned
    exact ne (Option.some.inj owned)
  owned h' mem := by
    have l' : isPoolHandle c h' := by
      obtain mem | mem := List.mem_append.mp mem
      · exact (fits.owned h' mem).1
      · rw [List.mem_singleton.mp mem]; exact l
    refine ⟨l', ?_⟩
    rw [owner_set len l l']
    split
    case isTrue => rfl
    case isFalse other =>
      obtain mem | mem := List.mem_append.mp mem
      · exact (fits.owned h' mem).2
      · exact absurd (List.mem_singleton.mp mem) other
  all h' l' owned := by
    rw [owner_set len l l'] at owned
    split at owned
    case isTrue same => subst same; simp
    case isFalse => exact List.mem_append_left _ (fits.all h' l' owned)

/-- A queue's oldest Buffer leaves it with another owner value. -/
theorem QueueFits.pop (fits : QueueFits c owners (h :: q) o) (len : owners.length = c.poolSize) (ne : o₂ ≠ o) :
    QueueFits c (owners.set (poolIndex h) o₂) q o := by
  obtain ⟨fresh, nodup⟩ := List.nodup_cons.mp fits.nodup
  have l := (fits.owned h List.mem_cons_self).1
  constructor
  case nodup => exact nodup
  case owned =>
    intro h' mem
    obtain ⟨l', owned⟩ := fits.owned h' (List.mem_cons_of_mem h mem)
    refine ⟨l', ?_⟩
    rwa [owner_set len l l', if_neg]
    rintro rfl
    exact fresh mem
  case all =>
    intro h' l' owned
    rw [owner_set len l l'] at owned
    split at owned
    case isTrue => exact absurd (Option.some.inj owned) ne
    case isFalse other => exact (List.mem_cons.mp (fits.all h' l' owned)).resolve_left other

/-- The number of free Buffers after one changes hands. -/
theorem count_free_set {i : Nat} (before : owners[i]? = some o₁) :
    (owners.set i o₂).count .free + (if o₁ = .free then 1 else 0) =
      owners.count .free + (if o₂ = .free then 1 else 0) := by
  obtain ⟨lt, e⟩ := List.getElem?_eq_some_iff.mp before
  have pos : o₁ = .free → 0 < owners.count .free := fun free =>
    List.count_pos_iff.mpr (free ▸ e ▸ List.getElem_mem lt)
  rw [List.count_set lt, e]
  simp only [beq_iff_eq]
  split
  case isTrue free => have := pos free; omega
  case isFalse => omega

/-- The clauses of `State.Inv` on the pool. -/
structure PoolFits (c : Config) (owners : List Owner) (avail : Nat) (qOut qIn : List Handle) : Prop where
  count : owners.length = c.poolSize
  avail : avail = owners.count .free
  qOut : QueueFits c owners qOut .inQOut
  qIn : QueueFits c owners qIn .inQIn

/-- An owner value of a Buffer that an agent holds (R29). -/
inductive Owner.Held : Owner → Prop
  | parser : Held .heldParser
  | host : Held .heldHost
  | framer : Held .heldFramer

theorem Owner.Held.ne_free (held : o.Held) : o ≠ .free := by rintro rfl; cases held

theorem Owner.Held.ne_inQOut (held : o.Held) : o ≠ .inQOut := by rintro rfl; cases held

theorem Owner.Held.ne_inQIn (held : o.Held) : o ≠ .inQIn := by rintro rfl; cases held

variable {avail : Nat} {qOut qIn rest : List Handle}

/-- A free Buffer is allocated (R161). -/
theorem PoolFits.take (fits : PoolFits c owners avail qOut qIn) (l : isPoolHandle c h)
    (free : owners[poolIndex h]? = some .free) (held : o.Held) :
    PoolFits c (owners.set (poolIndex h) o) (avail - 1) qOut qIn where
  count := (List.length_set ..).trans fits.count
  avail := by
    have counts := count_free_set (o₂ := o) free
    rw [if_pos rfl, if_neg held.ne_free] at counts
    have := fits.avail
    omega
  qOut := fits.qOut.other fits.count l free nofun held.ne_inQOut
  qIn := fits.qIn.other fits.count l free nofun held.ne_inQIn

/-- A held Buffer is given back (R162). -/
theorem PoolFits.giveBack (fits : PoolFits c owners avail qOut qIn) (l : isPoolHandle c h)
    (before : owners[poolIndex h]? = some o) (held : o.Held) :
    PoolFits c (owners.set (poolIndex h) .free) (avail + 1) qOut qIn where
  count := (List.length_set ..).trans fits.count
  avail := by
    have counts := count_free_set (o₂ := .free) before
    rw [if_pos rfl, if_neg held.ne_free] at counts
    have := fits.avail
    omega
  qOut := fits.qOut.other fits.count l before held.ne_inQOut nofun
  qIn := fits.qIn.other fits.count l before held.ne_inQIn nofun

/-- A Buffer that is not free before or after leaves `avail` as it is. -/
theorem count_free_set_of_ne {i : Nat} (before : owners[i]? = some o₁) (ne₁ : o₁ ≠ .free) (ne₂ : o₂ ≠ .free) :
    owners.count .free = (owners.set i o₂).count .free := by
  have counts := count_free_set (o₂ := o₂) before
  rw [if_neg ne₁, if_neg ne₂] at counts
  exact counts.symm

/-- A held Buffer is queued for the host (R196). -/
theorem PoolFits.queueOut (fits : PoolFits c owners avail qOut qIn) (l : isPoolHandle c h)
    (before : owners[poolIndex h]? = some o) (held : o.Held) :
    PoolFits c (owners.set (poolIndex h) .inQOut) avail (qOut ++ [h]) qIn where
  count := (List.length_set ..).trans fits.count
  avail := fits.avail.trans (count_free_set_of_ne before held.ne_free nofun)
  qOut := fits.qOut.push fits.count l before held.ne_inQOut
  qIn := fits.qIn.other fits.count l before held.ne_inQIn nofun

/-- A held Buffer is queued for the Framer (R226). -/
theorem PoolFits.queueIn (fits : PoolFits c owners avail qOut qIn) (l : isPoolHandle c h)
    (before : owners[poolIndex h]? = some o) (held : o.Held) :
    PoolFits c (owners.set (poolIndex h) .inQIn) avail qOut (qIn ++ [h]) where
  count := (List.length_set ..).trans fits.count
  avail := fits.avail.trans (count_free_set_of_ne before held.ne_free nofun)
  qOut := fits.qOut.other fits.count l before held.ne_inQOut nofun
  qIn := fits.qIn.push fits.count l before held.ne_inQIn

/-- The host takes the oldest Buffer of `Q_OUT` (R203). -/
theorem PoolFits.popOut (fits : PoolFits c owners avail (h :: rest) qIn) :
    PoolFits c (owners.set (poolIndex h) .heldHost) avail rest qIn := by
  obtain ⟨l, before⟩ := fits.qOut.owned h List.mem_cons_self
  exact
    { count := (List.length_set ..).trans fits.count
      avail := fits.avail.trans (count_free_set_of_ne before nofun nofun)
      qOut := fits.qOut.pop fits.count nofun
      qIn := fits.qIn.other fits.count l before nofun nofun }

/-- The Framer takes the oldest Buffer of `Q_IN` (R221). -/
theorem PoolFits.popIn (fits : PoolFits c owners avail qOut (h :: rest)) :
    PoolFits c (owners.set (poolIndex h) .heldFramer) avail qOut rest := by
  obtain ⟨l, before⟩ := fits.qIn.owned h List.mem_cons_self
  exact
    { count := (List.length_set ..).trans fits.count
      avail := fits.avail.trans (count_free_set_of_ne before nofun nofun)
      qOut := fits.qOut.other fits.count l before nofun nofun
      qIn := fits.qIn.pop fits.count nofun }

end Pool

/-! ### The sequencers and the reports (R30 to R38, R42) -/

/-- The clauses of `State.Inv` on the Parser. -/
structure ParserFits (c : Config) (state : PState) (acc : Byte) (cur : Option Handle) : Prop where
  range : state.InRange c
  acc : PaccFits c acc state
  curValid : cur.isSome = true ↔ ∃ r, state = .readPayload r
  curPool : ∀ h, cur = some h → isPoolHandle c h

/-- The clauses of `State.Inv` on the Framer. -/
structure FramerFits (c : Config) (state : FState) (acc : Byte) (cur : Option Handle) : Prop where
  range : state.InRange c
  acc : FaccFits c acc state
  curValid : cur.isSome = true ↔ state ≠ .idle
  curPool : ∀ h, cur = some h → isPoolHandle c h

/-- The clauses of `State.Inv` on `ERRQ`. -/
structure ReportsFit (c : Config) (errq : List Byte) : Prop where
  depth : errq.length ≤ c.errqDepth
  codes : ∀ b ∈ errq, IsErrorCode c b

section Sequencers

variable {c : Config} {b acc : Byte} {h : Handle}

theorem xorAll_take_succ {bs : List Byte} {i : Nat} (e : bs[i]? = some b) :
    xorAll (bs.take (i + 1)) = xorAll (bs.take i) ^^^ b := by
  simp [xorAll, List.take_add_one, e, List.foldl_append]

/-- Outside `ReadPayload` no Buffer is at hand (R32). -/
theorem ParserFits.cur_eq_none {state : PState} {cur : Option Handle} (fits : ParserFits c state acc cur)
    (other : ∀ r, state ≠ .readPayload r) : cur = none := by
  by_contra valid
  obtain ⟨r, e⟩ := fits.curValid.mp (Option.isSome_iff_ne_none.mpr valid)
  exact other r e

theorem ParserFits.of_none {state : PState} (range : state.InRange c) (fits : PaccFits c acc state)
    (other : ∀ r, state ≠ .readPayload r) : ParserFits c state acc none :=
  ⟨range, fits, by simpa using other, nofun⟩

theorem ParserFits.readPayload {r : Nat} (pos : 1 ≤ r) (le : r ≤ 254 - c.k) (l : isPoolHandle c h) :
    ParserFits c (.readPayload r) acc (some h) :=
  ⟨⟨pos, le⟩, trivial, by simp, fun _ e => Option.some.inj e ▸ l⟩

/-- One more preamble byte matched (R193). -/
theorem ParserFits.matched {i : Nat} (fits : ParserFits c (.seekPreamble i) acc none)
    (byte : c.pre[i]? = some b) :
    ParserFits c (if i + 1 = c.k then .readLength else .seekPreamble (i + 1)) (acc ^^^ b) none := by
  have lt : i < c.k := fits.range
  have xor : acc ^^^ b = xorAll (c.pre.take (i + 1)) := by
    rw [xorAll_take_succ byte, show acc = xorAll (c.pre.take i) from fits.acc]
  split
  case isTrue last =>
    refine .of_none trivial ?_ nofun
    show acc ^^^ b = pXor c
    rw [xor, last, List.take_length, pXor]
  case isFalse notLast => exact .of_none (show i + 1 < c.k by omega) xor nofun

/-- The recovery scan ends with the whole preamble seen or with less of it (R199). -/
theorem ParserFits.scanned (valid : c.Valid) (i : Nat) :
    ParserFits c (if scanIndex c i b = c.k then .readLength else .errorRecovery (scanIndex c i b))
      (if scanIndex c i b = c.k then pXor c else acc) none := by
  split
  case isTrue => exact .of_none trivial rfl nofun
  case isFalse ne => exact .of_none (lt_of_le_of_ne (scanIndex_le valid.1) ne) trivial nofun

/-- One more preamble byte sent (R222). -/
theorem FramerFits.sent {i : Nat} {next : FState} (fits : FramerFits c (.preamble i) acc (some h))
    (byte : c.pre[i]? = some b) (payload : next = .payload ∨ next = .checksum) :
    FramerFits c (if i + 1 < c.k then .preamble (i + 1) else next) (acc ^^^ b) (some h) := by
  split
  case isTrue lt =>
    refine ⟨lt, ?_, by simp, fits.curPool⟩
    show acc ^^^ b = xorAll (c.pre.take (i + 1))
    rw [xorAll_take_succ byte, show acc = xorAll (c.pre.take i) from fits.acc]
  case isFalse =>
    obtain rfl | rfl := payload
    · exact ⟨trivial, trivial, by simp, fits.curPool⟩
    · exact ⟨trivial, trivial, by simp, fits.curPool⟩

theorem payloadOrChecksum_cases (h : Handle) (s : State) :
    payloadOrChecksum h s = .payload ∨ payloadOrChecksum h s = .checksum := by
  unfold payloadOrChecksum
  split
  · exact .inr rfl
  · exact .inl rfl

/-- A report is made only while there is room (R42, R244). -/
theorem ReportsFit.push {errq : List Byte} (fits : ReportsFit c errq) (room : errq.length < c.errqDepth)
    (code : IsErrorCode c b) : ReportsFit c (errq ++ [b]) where
  depth := by simpa using room
  codes x mem := by
    obtain mem | mem := List.mem_append.mp mem
    · exact fits.codes x mem
    · exact List.mem_singleton.mp mem ▸ code

/-- The code of a mismatch names a preamble byte (R241). -/
theorem isErrorCode_mismatch {i : Nat} (valid : c.Valid) (lt : i < c.k) :
    IsErrorCode c (ProtocolError.preambleMismatch i).code := by
  have le := valid.2.1
  have code : (ProtocolError.preambleMismatch i).code.toNat = 0x40 + i := by
    rw [ProtocolError.code, BitVec.toNat_add, BitVec.toNat_ofNat]
    show (0x40 + i % 256) % 256 = 0x40 + i
    omega
  refine .inl ?_
  rw [code]
  show 0x40 ≤ 0x40 + i ∧ 0x40 + i < 0x40 + c.k
  omega

end Sequencers

/-! ### The invariant in its parts -/

/-- The parts of `State.Inv`, each a statement about a few registers. -/
theorem State.inv_iff {s : State} :
    s.Inv ↔ s.cfg.Valid ∧ s.StorageOk ∧ PoolFits s.cfg s.owner s.avail s.qOut s.qIn ∧
      ParserFits s.cfg s.pstate s.pacc s.pcur ∧ FramerFits s.cfg s.fstate s.facc s.fcur ∧ ReportsFit s.cfg s.errq := by
  constructor
  · intro inv
    exact ⟨inv.cfgValid, ⟨inv.bufCount, inv.cursors, inv.written, inv.memCanonical, inv.memInside⟩,
      ⟨inv.ownerCount, inv.availCounts, inv.qOutFits, inv.qInFits⟩,
      ⟨inv.pstateRange, inv.paccFits, inv.pcurValid, inv.pcurPool⟩,
      ⟨inv.fstateRange, inv.faccFits, inv.fcurValid, inv.fcurPool⟩, inv.errqDepth, inv.errqCodes⟩
  · rintro ⟨valid, storage, pool, parser, framer, reports⟩
    exact
      { cfgValid := valid, bufCount := storage.count, cursors := storage.cursors, written := storage.written,
        memCanonical := storage.canonical, memInside := storage.inside, ownerCount := pool.count,
        availCounts := pool.avail, qOutFits := pool.qOut, qInFits := pool.qIn, pstateRange := parser.range,
        paccFits := parser.acc, pcurValid := parser.curValid, pcurPool := parser.curPool, fstateRange := framer.range,
        faccFits := framer.acc, fcurValid := framer.curValid, fcurPool := framer.curPool,
        errqDepth := reports.depth, errqCodes := reports.codes }

/-- The state with a fixed value in every field that neither invariant speaks of. -/
def State.essence (s : State) : State :=
  { s with
    platch := none, fault := 0, rx := [], tx := [], rsp := ⟨0, 0, 0, 0, 0⟩, port := .host, pick := 0, pending := []
    epoch := 0 }

theorem State.inv_essence {s : State} : s.essence.Inv ↔ s.Inv :=
  (State.inv_iff (s := s.essence)).trans (State.inv_iff (s := s)).symm

theorem State.Inv.of_essence {s t : State} (same : t.essence = s.essence) (inv : s.Inv) : t.Inv := by
  rw [← State.inv_essence, same, State.inv_essence]
  exact inv

theorem State.essence_received (s : State) (b : Byte) : (s.received b).essence = s.essence := by
  unfold State.received
  split <;> rfl

theorem entryState_essence (i : Instr) (s : State) : (entryState i s).essence = s.essence := by
  cases i with
  | trRxbyte b => exact s.essence_received b
  | _ => rfl

/-! ### After reset (O46, O53, R50) -/

theorem State.resetOf_buf (c : Config) (h : Handle) : (State.resetOf c).buf h = Buf.empty := by
  simp only [State.buf, State.resetOf, List.getElem?_replicate]
  split <;> rfl

theorem State.resetOf_owner {c : Config} {p : Nat} {o : Owner} (e : (State.resetOf c).owner[p]? = some o) :
    o = .free := by
  simp only [State.resetOf, List.getElem?_replicate, Option.ite_none_right_eq_some, Option.some.injEq] at e
  exact e.2.symm

/-- Settles O46: each register read off `State.resetOf`, the Buffers and the owners by index. -/
theorem resetValues : Obligations.ResetValues := by
  intro c s reset
  obtain rfl : s = State.resetOf c := by
    obtain e | ⟨rfl, e⟩ := reset
    · exact e
    · exact e
  have free (p : Nat) (lt : p < c.poolSize) : (State.resetOf c).owner[p]? = some .free := by
    simp [State.resetOf, lt]
  exact ⟨rfl, fun h _ => State.resetOf_buf c h, rfl, rfl, rfl, free, rfl, rfl, rfl, rfl, rfl, rfl, rfl, rfl, rfl, rfl,
    rfl, rfl, rfl, rfl, rfl⟩

/-- An empty queue is right where no Buffer has its owner value. -/
theorem QueueFits.nil_resetOf (c : Config) {o : Owner} (ne : o ≠ .free) :
    QueueFits c (State.resetOf c).owner [] o :=
  ⟨List.nodup_nil, nofun, fun _ _ e => absurd (State.resetOf_owner e) ne⟩

theorem State.resetOf_inv {c : Config} (valid : c.Valid) : (State.resetOf c).Inv := by
  have empty (h : Handle) : bufAt (State.resetOf c).bufs h = Buf.empty := State.resetOf_buf c h
  refine State.inv_iff.mpr ⟨valid, ?storage, ?pool, ?parser, ?framer, Nat.zero_le _, nofun⟩
  case storage =>
    exact
      { count := List.length_replicate
        cursors := fun h _ => by rw [empty]; exact ⟨le_rfl, Nat.zero_le _⟩
        written := fun h i _ lt => by rw [empty] at lt; exact absurd lt (Nat.not_lt_zero i)
        canonical := rfl
        inside := nofun }
  case pool =>
    exact ⟨List.length_replicate, List.count_replicate_self.symm, .nil_resetOf c nofun, .nil_resetOf c nofun⟩
  case parser => exact .of_none valid.1 rfl nofun
  case framer => exact ⟨trivial, rfl, by simp [State.resetOf], nofun⟩

theorem State.resetOf_pairFits {c : Config} (valid : c.Valid) (d : DbSel) : PairFits (State.resetOf c) d := by
  constructor
  case openReadEmpty => rw [State.resetOf_buf]; exact fun _ => le_rfl
  case closedReadHolds => rw [State.resetOf_buf]; exact nofun
  case openWriteRoom => rw [State.resetOf_buf]; exact fun _ => capOf_pos valid _
  case closedWriteHolds => rw [State.resetOf_buf]; exact nofun
  case writeUnread => rw [State.resetOf_buf]; rfl

theorem State.resetOf_designed {c : Config} (valid : c.Valid) : (State.resetOf c).Designed where
  ing := State.resetOf_pairFits valid .ing
  egr := State.resetOf_pairFits valid .egr
  fillFits _ _ _ := nofun
  qOutClosed := nofun
  qInClosed := nofun
  pcurHeld := nofun
  fcurHeld := nofun
  payloadHolds := nofun

/-- Settles O53: no queue, cursor or sequencer names a Buffer yet, and every Buffer is empty, open and free. -/
theorem invariantsHoldAfterReset : Obligations.InvariantsHoldAfterReset := by
  have ref : Config.ref.Valid := by decide
  exact ⟨State.resetOf_inv ref, State.resetOf_designed ref,
    fun _ valid => ⟨State.resetOf_inv valid, State.resetOf_designed valid⟩⟩

/-! ### Every operation keeps the invariant (O54) -/

/-- An operation on one Buffer or one pair keeps the invariant. -/
theorem StorageStep.inv {s t : State} (x : StorageStep s t) (inv : s.Inv) : t.Inv := by
  obtain ⟨valid, storage, rest⟩ := State.inv_iff.mp inv
  have kept := x.storage storage
  rw [x.frame] at kept ⊢
  exact State.inv_iff.mpr ⟨valid, kept, rest⟩

theorem PairStep.inv {d : DbSel} {s t : State} (x : PairStep d s t) (inv : s.Inv) : t.Inv := x.storageStep.inv inv

theorem isPoolHandle_poolHandle {c : Config} {p : Nat} (valid : c.Valid) (lt : p < c.poolSize) :
    isPoolHandle c (poolHandle p) := by
  have le := poolSize_le valid
  have e := poolHandle_toNat (p := p) (by omega)
  unfold isPoolHandle
  omega

theorem poolIndex_poolHandle {c : Config} {p : Nat} (valid : c.Valid) (lt : p < c.poolSize) :
    poolIndex (poolHandle p) = p := by
  have le := poolSize_le valid
  have e := poolHandle_toNat (p := p) (by omega)
  unfold poolIndex
  omega

/-- The free Buffer that the pool hands out is a pool Buffer, and free (R161). -/
theorem State.Inv.free_pool {s : State} {p : Nat} (inv : s.Inv) (free : s.owner[p]? = some .free) :
    isPoolHandle s.cfg (poolHandle p) ∧ s.ownerOf (poolHandle p) = some .free := by
  have lt : p < s.cfg.poolSize := inv.ownerCount ▸ (List.getElem?_eq_some_iff.mp free).1
  exact ⟨isPoolHandle_poolHandle inv.cfgValid lt, by rwa [State.ownerOf, poolIndex_poolHandle inv.cfgValid lt]⟩

theorem StorageFits.allocated {s : State} {p : Nat} (a : Agent) (fits : s.StorageOk)
    (l : isPoolHandle s.cfg (poolHandle p)) : (s.allocated a p).StorageOk :=
  StorageFits.setBuf (s := ({ s with avail := s.avail - 1 } : State).setOwner (poolHandle p) (allocOwner a))
    (b := Buf.empty) fits (.inr l) le_rfl (Nat.zero_le _)

theorem allocOwner_held (a : Agent) : (allocOwner a).Held := by
  unfold allocOwner
  split
  · exact .parser
  · exact .host

/-- An allocation keeps the invariant (R161). -/
theorem State.Inv.allocated {s : State} {p : Nat} (a : Agent) (inv : s.Inv) (free : s.owner[p]? = some .free) :
    (s.allocated a p).Inv := by
  obtain ⟨valid, storage, pool, rest⟩ := State.inv_iff.mp inv
  obtain ⟨l, free⟩ := inv.free_pool free
  exact State.inv_iff.mpr ⟨valid, storage.allocated a l, pool.take l free (allocOwner_held a), rest⟩

/-! #### The Parser -/

/-- No pool Buffer is a slot of a pair (R104). -/
theorem ne_slotHandle {c : Config} {h : Handle} (l : isPoolHandle c h) (d : DbSel) (a : Bool) : h ≠ slotHandle d a := by
  rintro rfl
  exact absurd (slotHandle_lt d a) (by omega)

/-- A pool Buffer belongs to the agent that holds it (R256). -/
theorem State.agentOwning_pool {s : State} {h : Handle} (l : isPoolHandle s.cfg h) :
    s.agentOwning h = (s.ownerOf h).bind holderOf := by
  have noWrite (d : DbSel) : h ≠ s.wh d := ne_slotHandle l d _
  have noRead (d : DbSel) : h ≠ s.rh d := ne_slotHandle l d _
  rw [State.agentOwning, if_neg (noWrite _), if_neg (noRead _), if_neg (noWrite _), if_neg (noRead _), if_pos l]

theorem State.ownerOf_eq_heldBy {s : State} {h : Handle} {a : Agent} (l : isPoolHandle s.cfg h)
    (owned : s.agentOwning h = some a) : s.ownerOf h = heldBy a := by
  rw [State.agentOwning_pool l] at owned
  obtain ⟨o, e, holds⟩ := Option.bind_eq_some_iff.mp owned
  rw [e]
  cases o with
  | free | inQOut | inQIn => cases holds
  | heldParser | heldHost | heldFramer => injection holds with holds; subst holds; rfl

/-- The length byte leaves as many bytes to come as `ReadPayload` can count (R30, R91). -/
theorem remainingAfter_inRange {c : Config} {b : Byte} (valid : c.Valid) (length : legalLength c b) :
    1 ≤ remainingAfter c b ∧ remainingAfter c b ≤ 254 - c.k := by
  obtain ⟨-, -, -, min, -⟩ := valid
  have := b.isLt
  unfold remainingAfter
  omega

theorem ParserStep.inv {b : Byte} {s t : State} (x : ParserStep b s t) (inv : s.Inv) : t.Inv := by
  obtain ⟨valid, storage, pool, parser, framer, reports⟩ := State.inv_iff.mp inv
  cases x with
  | @matched i state byte =>
    rw [state] at parser
    have cur := parser.cur_eq_none nofun
    rw [cur] at parser
    exact State.inv_iff.mpr ⟨valid, storage, pool, cur ▸ parser.matched byte, framer, reports⟩
  | @mismatched i p state byte room =>
    have cur := parser.cur_eq_none (by rw [state]; nofun)
    have code := isErrorCode_mismatch valid (List.getElem?_eq_some_iff.mp byte).1
    rw [enterRecovery_eq]
    exact State.inv_iff.mpr ⟨valid, storage, pool, cur ▸ .scanned valid 0, framer, reports.push room code⟩
  | tooShort state room =>
    have cur := parser.cur_eq_none (by rw [state]; nofun)
    rw [enterRecovery_eq]
    exact State.inv_iff.mpr
      ⟨valid, storage, pool, cur ▸ .scanned valid 0, framer, reports.push room (.inr (.inl rfl))⟩
  | @started p state length avail free room =>
    obtain ⟨l, free⟩ := inv.free_pool (pickFree_some free)
    obtain ⟨pos, le⟩ := remainingAfter_inRange valid length
    have opened : (s.opened b p).StorageOk :=
      StorageFits.allocated (s := { s with pacc := s.pacc ^^^ b }) .parser storage l
    exact State.inv_iff.mpr ⟨valid, opened.stored b (.inr l) room, pool.take l free .parser, .readPayload pos le l,
      framer, reports⟩
  | @filled r h state cur owned room =>
    have l := inv.pcurPool h cur
    have range := inv.pstateRange
    rw [state] at range
    have stored := StorageFits.stored (s := { s with pacc := s.pacc ^^^ b }) b storage (.inr l) room
    have left : ParserFits s.cfg (.readPayload (r + 1)) (s.pacc ^^^ b) s.pcur :=
      cur ▸ .readPayload (Nat.succ_pos r) (Nat.le_of_succ_le range.2) l
    exact State.inv_iff.mpr ⟨valid, stored, pool, left, framer, reports⟩
  | @accepted h state cur owned =>
    have l := inv.pcurPool h cur
    have closed := StorageFits.setBuf (b := { s.buf h with closed := true }) storage (.inr l)
      (inv.cursors h (.inr l)).1 le_rfl
    exact State.inv_iff.mpr ⟨valid, closed, pool.queueOut l (State.ownerOf_eq_heldBy l owned) .parser,
      .of_none valid.1 rfl nofun, framer, reports⟩
  | @rejected h state cur held room =>
    have l := inv.pcurPool h cur
    rw [enterRecovery_eq]
    exact State.inv_iff.mpr ⟨valid, storage, pool.giveBack l held .parser, .scanned valid 0, framer,
      reports.push room (.inr (.inr rfl))⟩
  | @scanned i state =>
    have cur := parser.cur_eq_none (by rw [state]; nofun)
    rw [scan_eq]
    exact State.inv_iff.mpr ⟨valid, storage, pool, cur ▸ .scanned valid i, framer, reports⟩

/-! #### The Framer -/

/-- The Framer gives the Buffer it has sent back to the pool (R224). -/
theorem State.Inv.finished {s : State} {h : Handle} (inv : s.Inv) (cur : s.fcur = some h)
    (held : s.ownerOf h = some .heldFramer) : (s.finished h).Inv := by
  obtain ⟨valid, storage, pool, parser, framer, reports⟩ := State.inv_iff.mp inv
  have idle : FramerFits s.cfg .idle 0 none := ⟨trivial, rfl, by simp, nofun⟩
  exact State.inv_iff.mpr ⟨valid, storage, pool.giveBack (framer.curPool h cur) held .framer, parser, idle, reports⟩

theorem FramerStep.inv {s t : State} (x : FramerStep s t) (inv : s.Inv) : t.Inv := by
  cases x with
  | swapped _ swap => exact swap.inv inv
  | @popped h rest s' state swap queue =>
    obtain ⟨valid, storage, pool, parser, framer, reports⟩ := State.inv_iff.mp (swap.inv inv)
    have queue' : s'.qIn = h :: rest := by rw [swap.frame]; exact queue
    rw [queue'] at pool
    obtain ⟨l, -⟩ := pool.qIn.owned h List.mem_cons_self
    have taken : FramerFits s'.cfg (.preamble 0) 0 (some h) :=
      ⟨valid.1, rfl, by simp, fun _ e => Option.some.inj e ▸ l⟩
    exact State.inv_iff.mpr ⟨valid, storage, pool.popIn, parser, taken, reports⟩
  | @preamble i h p s' state cur byte sent =>
    obtain ⟨valid, storage, pool, parser, framer, reports⟩ := State.inv_iff.mp (sent.inv inv)
    have state' : s'.fstate = .preamble i := by rw [sent.frame]; exact state
    have cur' : s'.fcur = some h := by rw [sent.frame]; exact cur
    rw [state', cur'] at framer
    rw [← sent.cfg] at byte ⊢
    exact State.inv_iff.mpr
      ⟨valid, storage, pool, parser, cur' ▸ framer.sent byte (payloadOrChecksum_cases h s'), reports⟩
  | @payload h b s1 s' state cur read sent =>
    obtain ⟨valid, storage, pool, parser, framer, reports⟩ := State.inv_iff.mp (sent.inv (read.storageStep.inv inv))
    have cur' : s'.fcur = some h := by rw [sent.frame, read.frame]; exact cur
    rw [cur'] at framer
    have counted : FramerFits s'.cfg (payloadOrChecksum h s') (s'.facc ^^^ b) (some h) := by
      obtain e | e := payloadOrChecksum_cases h s'
      · rw [e]; exact ⟨trivial, trivial, by simp, framer.curPool⟩
      · rw [e]; exact ⟨trivial, trivial, by simp, framer.curPool⟩
    exact State.inv_iff.mpr ⟨valid, storage, pool, parser, cur' ▸ counted, reports⟩
  | @checksum h s1 s' state cur sent held pushed =>
    have cur' : s1.fcur = some h := by rw [sent.frame]; exact cur
    exact pushed.inv ((sent.inv inv).finished cur' held)

/-! #### All operations -/

theorem heldBy_held {a : Agent} {o : Owner} (e : heldBy a = some o) : o.Held := by
  cases a with
  | rx | tx => cases e
  | parser => cases e; exact .parser
  | framer => cases e; exact .framer
  | host => cases e; exact .host

theorem ruleOf_inv (i : Instr) {s : State} (inv : s.Inv) : (ruleOf i s).Ensures fun _ t => t.Inv := by
  intro r t done
  obtain ⟨valid, storage, pool, parser, framer, reports⟩ := State.inv_iff.mp inv
  cases i with
  | poolAlloc =>
    obtain ⟨-, p, free, rfl⟩ := opPoolAlloc_ensures _ _ _ _ done
    exact inv.allocated _ free
  | poolFree h =>
    obtain ⟨l, ⟨isSome, held⟩, -, rfl⟩ := opPoolFree_eq_done.mp done
    obtain ⟨o, owner⟩ := Option.isSome_iff_exists.mp isSome
    exact State.inv_iff.mpr
      ⟨valid, storage, pool.giveBack l owner (heldBy_held (held.symm.trans owner)), parser, framer, reports⟩
  | trTxbyte =>
    obtain ⟨sent, s', step, rfl⟩ := opTrTxbyte_ensures _ _ _ _ done
    exact .of_essence (s := s') rfl (step.inv inv)
  | parFetch =>
    obtain ⟨v, s', step, rfl⟩ := opParFetch_ensures _ _ _ _ done
    exact .of_essence (s := s') rfl (step.inv inv)
  | parExec =>
    obtain ⟨b, s', step, rfl⟩ := opParExec_ensures _ _ _ _ done
    exact .of_essence (s := s') rfl (step.inv inv)
  | frmStep => exact (opFrmStep_ensures _ _ _ _ done).inv inv
  | frmPost h =>
    obtain ⟨l, held, -, rfl⟩ := opFrmPost_ensures _ _ _ _ _ done
    exact State.inv_iff.mpr ⟨valid, storage, pool.queueIn l held .host, parser, framer, reports⟩
  | outPop =>
    obtain ⟨h, rest, queue, rfl⟩ := opOutPop_ensures _ _ _ _ done
    rw [queue] at pool
    exact State.inv_iff.mpr ⟨valid, storage, pool.popOut, parser, framer, reports⟩
  | errPop =>
    obtain ⟨e, rest, queue, rfl⟩ := opErrPop_ensures _ _ _ _ done
    obtain ⟨depth, codes⟩ := reports
    rw [queue] at depth codes
    exact State.inv_iff.mpr ⟨valid, storage, pool, parser, framer, Nat.le_of_succ_le depth,
      fun x mem => codes x (List.mem_cons_of_mem e mem)⟩
  | sysReset =>
    obtain ⟨-, done⟩ := issuedBy_eq_done.mp done
    obtain ⟨-, rfl⟩ := Res.done_eq_done.mp done
    exact .of_essence (s := State.resetOf s.cfg) rfl (State.resetOf_inv valid)
  | _ => exact (ruleOf_storageStep (by simp [targetOf]) s _ _ done).inv inv

/-- An induction over steps: a property of the registers that every rule keeps, where the command is an allowed one,
and that holds after reset, is kept by every step. -/
theorem step_keeps {P : State → Prop} {allowed : Agent → Instr → Prop} {s t : State}
    (of_essence : ∀ {s t : State}, t.essence = s.essence → P s → P t)
    (of_rule : ∀ i (s : State), allowed s.port i → P s → (ruleOf i s).Ensures fun _ t => P t)
    (of_reset : P s → P (State.resetOf s.cfg)) (holds : P s) (run : step s = .next t)
    (issued : ∀ a w n rest i, s.pending = .command a w n :: rest → decode s.cfg w = .ok i → allowed a i) : P t := by
  obtain rfl | ⟨rest, -, rfl⟩ | ⟨a, w, n, rest, waits, ⟨i, decoded, run⟩ | rfl⟩ := step_cases run
  · exact holds
  · exact of_essence (s := State.resetOf s.cfg) rfl (of_reset holds)
  · have entry : P (entryState i (s.serve a n rest)) := 
      of_essence (s := s) (entryState_essence i (s.serve a n rest)) holds
    rw [exec_eq_respond, respond_eq_next] at run
    obtain ⟨r, s', done, rfl⟩ | ⟨-, rfl⟩ | ⟨f, -, rfl⟩ := run
    · refine of_essence (s := s') rfl (of_rule i _ ?_ entry r s' done)
      rw [entryState_port]
      exact issued a w n rest i waits decoded
    · exact of_essence (s := entryState i (s.serve a n rest)) rfl entry
    · exact of_essence (s := entryState i (s.serve a n rest)) rfl entry
  · exact of_essence (s := s) rfl holds

/-- Settles O54: every rule keeps the parts of the invariant. -/
theorem invariantKeptByEveryStep : Obligations.InvariantKeptByEveryStep :=
  fun _ _ inv run => step_keeps (P := State.Inv) (allowed := fun _ _ => True) State.Inv.of_essence
    (fun i _ _ inv => ruleOf_inv i inv) (fun _ => State.resetOf_inv inv.cfgValid) inv run fun _ _ _ _ _ _ _ => trivial

/-! ### A block run as designed (O55, R256)

The parts of `State.Designed`, each tied to the Buffers of one owner: an operation that leaves those alone leaves the
part alone. -/

/-- The clauses of `State.Designed` on the Buffer the Parser fills (R195 to R197, R32). -/
structure FillDesigned (s : State) : Prop where
  fits : ∀ r h, s.pstate = .readPayload r → s.pcur = some h → FillFits s.cfg (s.buf h) r
  held : ∀ h, s.pcur = some h → s.ownerOf h = some .heldParser

/-- The clauses of `State.Designed` on the Buffer the Framer sends (R223, R38). -/
structure SendDesigned (s : State) : Prop where
  held : ∀ h, s.fcur = some h → s.ownerOf h = some .heldFramer
  holds : s.fstate = .payload → ∀ h, s.fcur = some h → ¬ (s.buf h).Empty

/-- The clause of `State.Designed` on `Q_OUT` (R40, R203). -/
def QOutDesigned (s : State) : Prop := ∀ h ∈ s.qOut, (s.buf h).closed = true ∧ (s.buf h).get = 0

/-- The clause of `State.Designed` on `Q_IN` (R41). -/
def QInDesigned (s : State) : Prop := ∀ h ∈ s.qIn, (s.buf h).closed = true

theorem State.designed_iff {s : State} :
    s.Designed ↔ (∀ d, PairFits s d) ∧ FillDesigned s ∧ SendDesigned s ∧ QOutDesigned s ∧ QInDesigned s := by
  constructor
  · intro des
    exact ⟨fun d => by cases d; exacts [des.ing, des.egr], ⟨des.fillFits, des.pcurHeld⟩,
      ⟨des.fcurHeld, des.payloadHolds⟩, des.qOutClosed, des.qInClosed⟩
  · rintro ⟨pairs, fill, send, qOut, qIn⟩
    exact ⟨pairs .ing, pairs .egr, fill.fits, qOut, qIn, fill.held, send.held, send.holds⟩

section Parts

variable {s t u : State} {o o' : Owner} {d : DbSel} {h h' : Handle}

/-- The pool Buffers with the owner value `o` keep it, and their registers. -/
def OwnedKept (o : Owner) (s t : State) : Prop :=
  ∀ h, isPoolHandle s.cfg h → s.ownerOf h = some o → t.ownerOf h = some o ∧ t.buf h = s.buf h

theorem OwnedKept.trans (x : OwnedKept o s t) (y : OwnedKept o t u) (cfg : t.cfg = s.cfg) : OwnedKept o s u := by
  intro h l owner
  obtain ⟨owner', buf⟩ := x h l owner
  obtain ⟨owner'', buf'⟩ := y h (cfg ▸ l) owner'
  exact ⟨owner'', buf'.trans buf⟩

theorem FillDesigned.of_none (noCur : t.pcur = none) : FillDesigned t where
  fits _ _ _ cur := by rw [noCur] at cur; cases cur
  held _ cur := by rw [noCur] at cur; cases cur

theorem SendDesigned.of_none (noCur : t.fcur = none) : SendDesigned t where
  held _ cur := by rw [noCur] at cur; cases cur
  holds _ _ cur := by rw [noCur] at cur; cases cur

theorem FillDesigned.kept (fill : FillDesigned s) (inv : s.Inv) (kept : OwnedKept .heldParser s t)
    (cfg : t.cfg = s.cfg) (pstate : t.pstate = s.pstate) (pcur : t.pcur = s.pcur) : FillDesigned t where
  fits r h state cur := by
    rw [pstate] at state
    rw [pcur] at cur
    rw [cfg, (kept h (inv.pcurPool h cur) (fill.held h cur)).2]
    exact fill.fits r h state cur
  held h cur := by
    rw [pcur] at cur
    exact (kept h (inv.pcurPool h cur) (fill.held h cur)).1

theorem SendDesigned.kept (send : SendDesigned s) (inv : s.Inv) (kept : OwnedKept .heldFramer s t)
    (fstate : t.fstate = s.fstate) (fcur : t.fcur = s.fcur) : SendDesigned t where
  held h cur := by
    rw [fcur] at cur
    exact (kept h (inv.fcurPool h cur) (send.held h cur)).1
  holds state h cur := by
    rw [fstate] at state
    rw [fcur] at cur
    rw [(kept h (inv.fcurPool h cur) (send.held h cur)).2]
    exact send.holds state h cur

theorem OwnedKept.buf_of_mem_qOut (kept : OwnedKept .inQOut s t) (inv : s.Inv) (mem : h ∈ s.qOut) :
    t.buf h = s.buf h := by
  obtain ⟨l, owner⟩ := inv.qOutFits.owned h mem
  exact (kept h l owner).2

theorem OwnedKept.buf_of_mem_qIn (kept : OwnedKept .inQIn s t) (inv : s.Inv) (mem : h ∈ s.qIn) :
    t.buf h = s.buf h := by
  obtain ⟨l, owner⟩ := inv.qInFits.owned h mem
  exact (kept h l owner).2

theorem QOutDesigned.kept (qOut : QOutDesigned s) (inv : s.Inv) (kept : OwnedKept .inQOut s t)
    (same : t.qOut = s.qOut) : QOutDesigned t := by
  intro h mem
  rw [same] at mem
  rw [kept.buf_of_mem_qOut inv mem]
  exact qOut h mem

theorem QInDesigned.kept (qIn : QInDesigned s) (inv : s.Inv) (kept : OwnedKept .inQIn s t)
    (same : t.qIn = s.qIn) : QInDesigned t := by
  intro h mem
  rw [same] at mem
  rw [kept.buf_of_mem_qIn inv mem]
  exact qIn h mem

/-! #### Operations on a pair -/

theorem PairStep.ownedKept (x : PairStep d s t) (o : Owner) : OwnedKept o s t := by
  intro h l owner
  refine ⟨?_, x.buffers h (.inr l) (ne_slotHandle l d)⟩
  rw [x.frame]
  exact owner

theorem slotHandle_ne {d d' : DbSel} (ne : d' ≠ d) (a a' : Bool) : slotHandle d' a' ≠ slotHandle d a := by
  cases d with
  | ing =>
    cases d' with
    | ing => exact absurd rfl ne
    | egr => cases a <;> cases a' <;> decide
  | egr =>
    cases d' with
    | ing => cases a <;> cases a' <;> decide
    | egr => exact absurd rfl ne

theorem PairStep.pairs (x : PairStep d s t) (inv : s.Inv) (pairs : ∀ d, PairFits s d) (d' : DbSel) : PairFits t d' := by
  by_cases e : d' = d
  · subst e
    exact x.pair inv.cfgValid (State.inv_iff.mp inv).2.1 (pairs d')
  · exact (pairs d').of_kept x.cfg (x.selector d' e) fun a =>
      x.buffers _ (.inl (slotHandle_lt d' a)) fun a' => slotHandle_ne e a' a

theorem PairStep.designed (x : PairStep d s t) (inv : s.Inv) (des : s.Designed) : t.Designed := by
  obtain ⟨pairs, fill, send, qOut, qIn⟩ := State.designed_iff.mp des
  have kept (o : Owner) := x.ownedKept o
  have control := x.control
  exact State.designed_iff.mpr ⟨x.pairs inv pairs,
    fill.kept inv (kept _) x.cfg (congrArg Control.pstate control) (congrArg Control.pcur control),
    send.kept inv (kept _) (congrArg Control.fstate control) (congrArg Control.fcur control),
    qOut.kept inv (kept _) (congrArg Control.qOut control), qIn.kept inv (kept _) (congrArg Control.qIn control)⟩

/-! #### Operations on a pool Buffer -/

/-- What an operation on one pool Buffer, with the owner value `o` before, leaves alone: the pairs, and the pool Buffers
with other owner values. -/
structure PoolStep (o : Owner) (s t : State) : Prop where
  cfg : t.cfg = s.cfg
  selector : ∀ d, t.aw d = s.aw d
  slots : ∀ d a, t.buf (slotHandle d a) = s.buf (slotHandle d a)
  others : ∀ o', o' ≠ o → OwnedKept o' s t

theorem PoolStep.of_handle (l : isPoolHandle s.cfg h) (owner : s.ownerOf h = some o) (cfg : t.cfg = s.cfg)
    (selector : ∀ d, t.aw d = s.aw d) (buffers : BuffersKept [h] s t)
    (owners : ∀ h', isPoolHandle s.cfg h' → h' ≠ h → t.ownerOf h' = s.ownerOf h') : PoolStep o s t where
  cfg := cfg
  selector := selector
  slots d a := buffers _ (.inl (slotHandle_lt d a)) (by simpa using (ne_slotHandle l d a).symm)
  others o' ne h' l' owner' := by
    have other : h' ≠ h := by
      rintro rfl
      rw [owner] at owner'
      exact ne (Option.some.inj owner').symm
    exact ⟨(owners h' l' other).trans owner', buffers h' (.inr l') (by simpa using other)⟩

/-- An operation that writes neither Buffers nor owners. -/
theorem PoolStep.of_same (o : Owner) (cfg : t.cfg = s.cfg) (selector : ∀ d, t.aw d = s.aw d)
    (bufs : t.bufs = s.bufs) (owner : t.owner = s.owner) : PoolStep o s t where
  cfg := cfg
  selector := selector
  slots d a := by rw [State.buf, bufs]; rfl
  others o' _ h _ e := ⟨by rw [State.ownerOf, owner]; exact e, by rw [State.buf, bufs]; rfl⟩

theorem PoolStep.pairs (x : PoolStep o s t) (pairs : ∀ d, PairFits s d) (d : DbSel) : PairFits t d :=
  (pairs d).of_kept x.cfg (x.selector d) (x.slots d)

theorem State.ownerOf_set_other (owners : t.owner = s.owner.set (poolIndex h) o) (l : isPoolHandle s.cfg h)
    (l' : isPoolHandle s.cfg h') (ne : h' ≠ h) : t.ownerOf h' = s.ownerOf h' := by
  rw [State.ownerOf, owners, List.getElem?_set_ne fun e => ne (poolIndex_inj l' l e.symm)]
  rfl

theorem State.ownerOf_set_same (owners : t.owner = s.owner.set (poolIndex h) o) (inv : s.Inv)
    (l : isPoolHandle s.cfg h) : t.ownerOf h = some o := by
  have lt := inv.ownerCount ▸ poolIndex_lt l
  rw [State.ownerOf, owners, List.getElem?_set_self lt]

/-- A pool Buffer that changes hands, with its registers as they are. -/
theorem PoolStep.of_setOwner (l : isPoolHandle s.cfg h) (owner : s.ownerOf h = some o) (cfg : t.cfg = s.cfg)
    (selector : ∀ d, t.aw d = s.aw d) (bufs : t.bufs = s.bufs) (owners : t.owner = s.owner.set (poolIndex h) o') :
    PoolStep o s t :=
  .of_handle l owner cfg selector (fun _ _ _ => by rw [State.buf, bufs]; rfl) fun _ l' ne =>
    State.ownerOf_set_other owners l l' ne

theorem BufferStep.poolStep {a : Agent} (x : BufferStep a h s t) (l : isPoolHandle s.cfg h)
    (holder : heldBy a = some o) : PoolStep o s t :=
  .of_handle l ((State.ownerOf_eq_heldBy l x.owned).trans holder) (by rw [x.frame]) (fun d => by rw [x.frame]; rfl)
    x.buffers fun h' _ _ => by rw [x.frame]; rfl

/-- An operation on a Buffer of the host, or a free one, that leaves the sequencers and the queues alone. -/
theorem PoolStep.designed (x : PoolStep o s t) (host : o = .free ∨ o = .heldHost) (inv : s.Inv) (des : s.Designed)
    (pstate : t.pstate = s.pstate) (pcur : t.pcur = s.pcur) (fstate : t.fstate = s.fstate) (fcur : t.fcur = s.fcur)
    (sameOut : t.qOut = s.qOut) (sameIn : t.qIn = s.qIn) : t.Designed := by
  obtain ⟨pairs, fill, send, qOut, qIn⟩ := State.designed_iff.mp des
  have kept (o' : Owner) (free : o' ≠ .free) (held : o' ≠ .heldHost) : OwnedKept o' s t := by
    refine x.others o' ?_
    obtain rfl | rfl := host
    · exact free
    · exact held
  exact State.designed_iff.mpr ⟨x.pairs pairs, fill.kept inv (kept _ nofun nofun) x.cfg pstate pcur,
    send.kept inv (kept _ nofun nofun) fstate fcur, qOut.kept inv (kept _ nofun nofun) sameOut,
    qIn.kept inv (kept _ nofun nofun) sameIn⟩

/-- A turn of the Parser leaves what belongs to the Framer alone. -/
theorem PoolStep.designed_of_parser (x : PoolStep o s t) (parser : o = .free ∨ o = .heldParser) (inv : s.Inv)
    (des : s.Designed) (fill : FillDesigned t) (qOut : OwnedKept .inQOut s t → QOutDesigned t)
    (fstate : t.fstate = s.fstate) (fcur : t.fcur = s.fcur) (sameIn : t.qIn = s.qIn) : t.Designed := by
  obtain ⟨pairs, -, send, -, qIn⟩ := State.designed_iff.mp des
  have kept (o' : Owner) (free : o' ≠ .free) (held : o' ≠ .heldParser) : OwnedKept o' s t := by
    refine x.others o' ?_
    obtain rfl | rfl := parser
    · exact free
    · exact held
  exact State.designed_iff.mpr ⟨x.pairs pairs, fill, send.kept inv (kept _ nofun nofun) fstate fcur,
    qOut (kept _ nofun nofun), qIn.kept inv (kept _ nofun nofun) sameIn⟩

end Parts

/-! #### The Parser -/

section Parser

variable {s t : State} {b : Byte} {p r : Nat} {h : Handle}

theorem capOf_pool {c : Config} (l : isPoolHandle c h) : capOf c h = c.poolCap := by
  unfold capOf
  rw [if_neg (by omega), if_neg (by omega)]

/-- A turn of the Parser that has no Buffer at hand and takes none. -/
theorem designed_of_noBuffer (inv : s.Inv) (des : s.Designed) (cur : t.pcur = none) (cfg : t.cfg = s.cfg)
    (selector : ∀ d, t.aw d = s.aw d) (bufs : t.bufs = s.bufs) (owner : t.owner = s.owner) (sameOut : t.qOut = s.qOut)
    (fstate : t.fstate = s.fstate) (fcur : t.fcur = s.fcur) (sameIn : t.qIn = s.qIn) : t.Designed := by
  exact (PoolStep.of_same .free cfg selector bufs owner).designed_of_parser (.inl rfl) inv des (.of_none cur)
    (fun kept => QOutDesigned.kept des.qOutClosed inv kept sameOut) fstate fcur sameIn

/-- The Buffer of a frame after its length byte (R195). -/
theorem State.opened_stored_poolStep (inv : s.Inv) (l : isPoolHandle s.cfg (poolHandle p))
    (free : s.ownerOf (poolHandle p) = some .free) (state : PState) :
    PoolStep .free s { (s.opened b p).stored (poolHandle p) b with pstate := state } := by
  refine .of_handle l free rfl (fun _ => rfl) ?_ fun h' l' ne => State.ownerOf_set_other (o := .heldParser) rfl l l' ne
  intro h' l' ne
  have other : h' ≠ poolHandle p := by simpa using ne
  have len : (s.opened b p).bufs.length = 4 + s.cfg.poolSize := (List.length_set ..).trans inv.bufCount
  calc ((s.opened b p).stored (poolHandle p) b).buf h'
      = (s.opened b p).buf h' := by rw [State.buf_stored b len (.inr l) l', if_neg other]
    _ = s.buf h' := State.buf_setBuf_other (s := s) Buf.empty (.inr l) l' other

theorem State.buf_opened_stored (inv : s.Inv) (l : isPoolHandle s.cfg (poolHandle p)) :
    ((s.opened b p).stored (poolHandle p) b).buf (poolHandle p) = Buf.empty.pushed s.cfg.poolCap := by
  have len : (s.opened b p).bufs.length = 4 + s.cfg.poolSize := (List.length_set ..).trans inv.bufCount
  have empty : (s.opened b p).buf (poolHandle p) = Buf.empty := State.buf_setBuf_same (s := s) _ inv.bufCount (.inr l)
  rw [State.buf_stored b len (.inr l) (.inr l), if_pos rfl, empty]
  exact congrArg Buf.empty.pushed (capOf_pool l)

/-- The length byte is the first of the stored bytes (R94, R195). -/
theorem FillFits.first {c : Config} (valid : c.Valid) (length : legalLength c b) :
    FillFits c (Buf.empty.pushed c.poolCap) (remainingAfter c b) where
  unread := rfl
  closedIffFull := by simp [Buf.pushed, Buf.empty]
  bounded := by
    obtain ⟨-, -, -, min, -⟩ := valid
    have := b.isLt
    show 0 + 1 + remainingAfter c b ≤ 255 - c.k
    unfold remainingAfter
    omega

/-- One more byte of the payload is stored (R196). -/
theorem FillFits.next {c : Config} {buf : Buf} (fits : FillFits c buf (r + 2)) (opened : buf.closed = false) :
    FillFits c (buf.pushed c.poolCap) (r + 1) where
  unread := fits.unread
  closedIffFull := by simp [Buf.pushed, opened]
  bounded := by
    have := fits.bounded
    show buf.put + 1 + (r + 1) ≤ 255 - c.k
    omega

theorem ParserStep.designed (x : ParserStep b s t) (inv : s.Inv) (des : s.Designed) : t.Designed := by
  obtain ⟨-, -, -, parser, -⟩ := State.inv_iff.mp inv
  cases x with
  | matched state =>
    have cur := parser.cur_eq_none (by rw [state]; nofun)
    exact designed_of_noBuffer inv des cur rfl (fun _ => rfl) rfl rfl rfl rfl rfl rfl
  | mismatched state =>
    have cur := parser.cur_eq_none (by rw [state]; nofun)
    rw [enterRecovery_eq]
    exact designed_of_noBuffer inv des cur rfl (fun _ => rfl) rfl rfl rfl rfl rfl rfl
  | tooShort state =>
    have cur := parser.cur_eq_none (by rw [state]; nofun)
    rw [enterRecovery_eq]
    exact designed_of_noBuffer inv des cur rfl (fun _ => rfl) rfl rfl rfl rfl rfl rfl
  | scanned state =>
    have cur := parser.cur_eq_none (by rw [state]; nofun)
    rw [scan_eq]
    exact designed_of_noBuffer inv des cur rfl (fun _ => rfl) rfl rfl rfl rfl rfl rfl
  | @started p state length avail free room =>
    obtain ⟨l, free⟩ := inv.free_pool (pickFree_some free)
    have step := State.opened_stored_poolStep (b := b) inv l free (.readPayload (remainingAfter s.cfg b))
    refine step.designed_of_parser (.inl rfl) inv des ⟨?_, ?_⟩
      (fun kept => QOutDesigned.kept des.qOutClosed inv kept rfl) rfl rfl rfl
    · rintro r h ⟨⟩ ⟨⟩
      exact State.buf_opened_stored (b := b) inv l ▸ FillFits.first inv.cfgValid length
    · rintro h ⟨⟩
      exact State.ownerOf_set_same (s := s) rfl inv l
  | @filled r h state cur owned room =>
    have l := inv.pcurPool h cur
    have stored : BufferStep .parser h { s with pacc := s.pacc ^^^ b }
        (({ s with pacc := s.pacc ^^^ b } : State).stored h b) :=
      .stored b (.inr l) owned room
    have step : PoolStep .heldParser s (s.filled h b (r + 1)) :=
      .of_handle l (State.ownerOf_eq_heldBy l owned) rfl (fun _ => rfl) stored.buffers fun _ _ _ => rfl
    have after : (s.filled h b (r + 1)).buf h = (s.buf h).pushed s.cfg.poolCap := by
      refine (State.buf_stored (s := { s with pacc := s.pacc ^^^ b }) b inv.bufCount (.inr l) (.inr l)).trans ?_
      rw [if_pos rfl]
      exact congrArg (s.buf h).pushed (capOf_pool l)
    refine step.designed_of_parser (.inr rfl) inv des ⟨?_, ?_⟩
      (fun kept => QOutDesigned.kept des.qOutClosed inv kept rfl) rfl rfl rfl
    · rintro r' h' ⟨⟩ cur'
      obtain rfl : h = h' := Option.some.inj (cur.symm.trans cur')
      rw [after]
      exact (des.fillFits _ _ state cur).next room.1
    · exact fun h' cur' => des.pcurHeld h' cur'
  | @accepted h state cur owned =>
    have l := inv.pcurPool h cur
    have step : PoolStep .heldParser s (s.accepted h) :=
      .of_handle l (State.ownerOf_eq_heldBy l owned) rfl (fun _ => rfl)
        (fun h' l' ne => State.buf_setBuf_other (s := s) _ (.inr l) l' (by simpa using ne)) fun h' l' ne =>
          State.ownerOf_set_other (o := .inQOut) rfl l l' ne
    have after : (s.accepted h).buf h = { s.buf h with closed := true } :=
      State.buf_setBuf_same (s := s) _ inv.bufCount (.inr l)
    refine step.designed_of_parser (.inr rfl) inv des (.of_none rfl) (fun kept h' mem => ?_) rfl rfl rfl
    obtain mem | mem := List.mem_append.mp mem
    · rw [kept.buf_of_mem_qOut inv mem]
      exact des.qOutClosed h' mem
    · obtain rfl := List.mem_singleton.mp mem
      rw [after]
      exact ⟨rfl, (des.fillFits _ _ state cur).unread⟩
  | @rejected h state cur held room =>
    rw [enterRecovery_eq]
    refine PoolStep.designed_of_parser (o := .heldParser) ?_ (.inr rfl) inv des (.of_none rfl)
      (fun kept => QOutDesigned.kept des.qOutClosed inv kept rfl) rfl rfl rfl
    exact .of_setOwner (o' := .free) (inv.pcurPool h cur) held rfl (fun _ => rfl) rfl rfl

end Parser

/-! #### The Framer -/

section Framer

variable {s t : State} {b : Byte} {h : Handle}

/-- After a byte sent, `Payload` is the next state only with a byte unread (R222, R223). -/
theorem not_empty_of_payloadOrChecksum (e : payloadOrChecksum h s = .payload) : ¬ (s.buf h).Empty := by
  intro empty
  rw [payloadOrChecksum, if_pos empty] at e
  cases e

/-- A turn of the Framer that counts a byte changes its state register only. -/
theorem State.Designed.counted {next : FState} (des : s.Designed)
    (holds : next = .payload → ∀ h, s.fcur = some h → ¬ (s.buf h).Empty) : (s.counted b next).Designed := by
  obtain ⟨pairs, fill, send, qOut, qIn⟩ := State.designed_iff.mp des
  exact State.designed_iff.mpr ⟨fun d => (pairs d).of_kept rfl rfl fun _ => rfl, ⟨fill.fits, fill.held⟩,
    ⟨send.held, holds⟩, qOut, qIn⟩

theorem State.Designed.popped {rest : List Handle} (des : s.Designed) (inv : s.Inv) (queue : s.qIn = h :: rest) :
    (s.popped h rest).Designed := by
  obtain ⟨pairs, fill, -, qOut, qIn⟩ := State.designed_iff.mp des
  obtain ⟨l, owner⟩ := inv.qInFits.owned h (queue ▸ List.mem_cons_self)
  have step : PoolStep .inQIn s (s.popped h rest) :=
    .of_setOwner (o' := .heldFramer) l owner rfl (fun _ => rfl) rfl rfl
  refine State.designed_iff.mpr ⟨step.pairs pairs, fill.kept inv (step.others _ nofun) rfl rfl rfl, ⟨?_, nofun⟩,
    qOut.kept inv (step.others _ nofun) rfl, fun h' mem => qIn h' (queue ▸ List.mem_cons_of_mem h mem)⟩
  rintro h' ⟨⟩
  exact State.ownerOf_set_same (s := s) rfl inv l

theorem State.Designed.finished (des : s.Designed) (inv : s.Inv) (l : isPoolHandle s.cfg h)
    (held : s.ownerOf h = some .heldFramer) : (s.finished h).Designed := by
  obtain ⟨pairs, fill, -, qOut, qIn⟩ := State.designed_iff.mp des
  have step : PoolStep .heldFramer s (s.finished h) :=
    .of_setOwner (o' := .free) l held rfl (fun _ => rfl) rfl rfl
  exact State.designed_iff.mpr ⟨step.pairs pairs, fill.kept inv (step.others _ nofun) rfl rfl rfl, .of_none rfl,
    qOut.kept inv (step.others _ nofun) rfl, qIn.kept inv (step.others _ nofun) rfl⟩

/-- The Framer reads its Buffer and sends the byte (R223): what belongs to the others is left alone, and what the
Framer itself has at hand is left to its next state. -/
theorem designed_of_payload {s1 s' : State} (inv : s.Inv) (des : s.Designed) (cur : s.fcur = some h)
    (read : BufferStep .framer h s s1) (sent : PairStep .egr s1 s') :
    (s'.counted b (payloadOrChecksum h s')).Designed := by
  obtain ⟨pairs, fill, send, qOut, qIn⟩ := State.designed_iff.mp des
  have readStep : PoolStep .heldFramer s s1 := read.poolStep (inv.fcurPool h cur) rfl
  have kept (o : Owner) (ne : o ≠ .heldFramer) : OwnedKept o s s' :=
    (readStep.others o ne).trans (sent.ownedKept o) readStep.cfg
  have control : s'.control = s.control := sent.control.trans read.storageStep.control
  have owner : s'.owner = s.owner := by rw [sent.frame, read.frame]
  have after : ∀ d, PairFits s' d := sent.pairs (read.storageStep.inv inv) (readStep.pairs pairs)
  have cur' : s'.fcur = s.fcur := congrArg Control.fcur control
  have fill' : FillDesigned s' := fill.kept inv (kept _ nofun) (sent.cfg.trans readStep.cfg)
    (congrArg Control.pstate control) (congrArg Control.pcur control)
  refine State.designed_iff.mpr ⟨fun d => (after d).of_kept rfl rfl fun _ => rfl, ⟨fill'.fits, fill'.held⟩,
    ⟨fun h' e => ?_, fun e h' e' => ?_⟩, qOut.kept inv (kept _ nofun) (congrArg Control.qOut control),
    qIn.kept inv (kept _ nofun) (congrArg Control.qIn control)⟩
  · have held := send.held h' (cur'.symm.trans e)
    rw [State.ownerOf, ← owner] at held
    exact held
  · obtain rfl : h = h' := Option.some.inj ((cur'.trans cur).symm.trans e')
    exact not_empty_of_payloadOrChecksum e

theorem FramerStep.designed (x : FramerStep s t) (inv : s.Inv) (des : s.Designed) : t.Designed := by
  cases x with
  | swapped _ swap => exact swap.designed inv des
  | @popped h rest s' state swap queue =>
    exact (swap.designed inv des).popped (swap.inv inv) ((congrArg Control.qIn swap.control).trans queue)
  | @preamble i h p s' state cur byte sent =>
    refine (sent.designed inv des).counted fun e h' cur' => ?_
    obtain rfl : h = h' :=
      Option.some.inj (((congrArg Control.fcur sent.control).trans cur).symm.trans cur')
    split at e
    · cases e
    · exact not_empty_of_payloadOrChecksum e
  | payload _ cur read sent => exact designed_of_payload inv des cur read sent
  | @checksum h s1 s' state cur sent held pushed =>
    have cur' : s1.fcur = some h := (congrArg Control.fcur sent.control).trans cur
    have inv' : s1.Inv := sent.inv inv
    exact pushed.designed (inv'.finished cur' held)
      ((sent.designed inv des).finished inv' (inv'.fcurPool h cur') held)

end Framer

/-! #### All operations -/

theorem State.designed_essence {s : State} : s.essence.Designed ↔ s.Designed :=
  ⟨fun des => ⟨des.ing.of_kept rfl rfl fun _ => rfl, des.egr.of_kept rfl rfl fun _ => rfl, des.fillFits,
      des.qOutClosed, des.qInClosed, des.pcurHeld, des.fcurHeld, des.payloadHolds⟩,
    fun des => ⟨des.ing.of_kept rfl rfl fun _ => rfl, des.egr.of_kept rfl rfl fun _ => rfl, des.fillFits,
      des.qOutClosed, des.qInClosed, des.pcurHeld, des.fcurHeld, des.payloadHolds⟩⟩

theorem State.Designed.of_essence {s t : State} (same : t.essence = s.essence) (des : s.Designed) : t.Designed := by
  rw [← State.designed_essence, same, State.designed_essence]
  exact des

/-- The internal agents of a block run as designed issue no operation on a single Buffer (R256). -/
theorem host_of_asDesigned_buffer {a : Agent} {i : Instr} {h : Handle} (target : targetOf i = .buffer h)
    (designed : AsDesigned a i) : a = .host := by
  cases a with
  | host => rfl
  | rx =>
    obtain rfl | ⟨b, rfl⟩ := designed
    · cases target
    · cases target
  | parser =>
    obtain rfl | rfl := designed
    · cases target
    · cases target
  | framer => obtain rfl := designed; cases target
  | tx => obtain rfl := designed; cases target

theorem host_of_asDesigned_poolFree {a : Agent} {h : Handle} (designed : AsDesigned a (.poolFree h)) : a = .host := by
  cases a with
  | host => rfl
  | rx | parser | framer | tx => simp [AsDesigned] at designed

/-- The Buffers the host owns are pool Buffers (R256). -/
theorem State.isPoolHandle_of_host {s : State} {h : Handle} (owned : s.agentOwning h = some .host) :
    isPoolHandle s.cfg h := by
  unfold State.agentOwning at owned
  split_ifs at owned with _ _ _ _ pool
  · cases owned
  · cases owned
  · cases owned
  · cases owned
  · exact pool

theorem BufferStep.designed {h : Handle} {s t : State} (x : BufferStep .host h s t) (inv : s.Inv)
    (des : s.Designed) : t.Designed := by
  have step : PoolStep .heldHost s t := x.poolStep (State.isPoolHandle_of_host x.owned) rfl
  have control := x.storageStep.control
  exact step.designed (.inr rfl) inv des (congrArg Control.pstate control) (congrArg Control.pcur control)
    (congrArg Control.fstate control) (congrArg Control.fcur control) (congrArg Control.qOut control)
    (congrArg Control.qIn control)

theorem ruleOf_designed (i : Instr) {s : State} (allowed : AsDesigned s.port i) (inv : s.Inv) (des : s.Designed) :
    (ruleOf i s).Ensures fun _ t => t.Designed := by
  intro r t done
  have effect := ruleOf_targetStep i s r t done
  cases target : targetOf i with
  | nothing =>
    rw [target] at effect
    obtain rfl : t = s := effect
    exact des
  | buffer h =>
    rw [target, host_of_asDesigned_buffer target allowed] at effect
    exact BufferStep.designed effect inv des
  | pair d =>
    rw [target] at effect
    exact PairStep.designed effect inv des
  | more =>
    obtain ⟨pairs, fill, send, qOut, qIn⟩ := State.designed_iff.mp des
    cases i with
    | poolAlloc =>
      obtain ⟨-, p, free, rfl⟩ := opPoolAlloc_ensures _ _ _ _ done
      obtain ⟨l, free⟩ := inv.free_pool free
      have step : PoolStep .free s (s.allocated s.port p) :=
        .of_handle l free rfl (fun _ => rfl)
          (fun h' l' ne => State.buf_setBuf_other (s := s) Buf.empty (.inr l) l' (by simpa using ne))
          fun h' l' ne => State.ownerOf_set_other (o := allocOwner s.port) rfl l l' ne
      exact step.designed (.inl rfl) inv des rfl rfl rfl rfl rfl rfl
    | poolFree h =>
      obtain ⟨l, ⟨-, held⟩, -, rfl⟩ := opPoolFree_eq_done.mp done
      rw [host_of_asDesigned_poolFree allowed] at held
      refine PoolStep.designed (o := .heldHost) ?_ (.inr rfl) inv des rfl rfl rfl rfl rfl rfl
      exact .of_setOwner (o' := .free) l held rfl (fun _ => rfl) rfl rfl
    | trTxbyte =>
      obtain ⟨sent, s', step, rfl⟩ := opTrTxbyte_ensures _ _ _ _ done
      exact .of_essence (s := s') rfl (step.designed inv des)
    | parFetch =>
      obtain ⟨v, s', step, rfl⟩ := opParFetch_ensures _ _ _ _ done
      exact .of_essence (s := s') rfl (step.designed inv des)
    | parExec =>
      obtain ⟨b, s', step, rfl⟩ := opParExec_ensures _ _ _ _ done
      exact .of_essence (s := s') rfl (step.designed inv des)
    | frmStep => exact (opFrmStep_ensures _ _ _ _ done).designed inv des
    | frmPost h =>
      obtain ⟨l, held, closed, rfl⟩ := opFrmPost_ensures _ _ _ _ _ done
      have step : PoolStep .heldHost s { s.setOwner h .inQIn with qIn := s.qIn ++ [h] } :=
        .of_setOwner (o' := .inQIn) l held rfl (fun _ => rfl) rfl rfl
      refine State.designed_iff.mpr ⟨step.pairs pairs, fill.kept inv (step.others _ nofun) rfl rfl rfl,
        send.kept inv (step.others _ nofun) rfl rfl, qOut.kept inv (step.others _ nofun) rfl, fun h' mem => ?_⟩
      obtain mem | mem := List.mem_append.mp mem
      · exact qIn h' mem
      · exact List.mem_singleton.mp mem ▸ closed
    | outPop =>
      obtain ⟨h, rest, queue, rfl⟩ := opOutPop_ensures _ _ _ _ done
      obtain ⟨l, owner⟩ := inv.qOutFits.owned h (queue ▸ List.mem_cons_self)
      have step : PoolStep .inQOut s { s.setOwner h .heldHost with qOut := rest } :=
        .of_setOwner (o' := .heldHost) l owner rfl (fun _ => rfl) rfl rfl
      exact State.designed_iff.mpr ⟨step.pairs pairs, fill.kept inv (step.others _ nofun) rfl rfl rfl,
        send.kept inv (step.others _ nofun) rfl rfl, fun h' mem => qOut h' (queue ▸ List.mem_cons_of_mem h mem),
        qIn.kept inv (step.others _ nofun) rfl⟩
    | errPop =>
      obtain ⟨e, rest, -, rfl⟩ := opErrPop_ensures _ _ _ _ done
      refine PoolStep.designed (o := .free) ?_ (.inl rfl) inv des rfl rfl rfl rfl rfl rfl
      exact .of_same .free rfl (fun _ => rfl) rfl rfl
    | sysReset =>
      obtain ⟨-, done⟩ := issuedBy_eq_done.mp done
      obtain ⟨-, rfl⟩ := Res.done_eq_done.mp done
      exact .of_essence (s := State.resetOf s.cfg) rfl (State.resetOf_designed inv.cfgValid)
    | _ => cases target

/-- Settles O55: together with the invariant, which says which Buffers the queues and the sequencers name, every rule
of a block run as designed keeps the parts. -/
theorem designedKeptByDesignedSteps : Obligations.DesignedKeptByDesignedSteps := by
  intro s t inv des run issued
  have both : t.Inv ∧ t.Designed := step_keeps (P := fun s => s.Inv ∧ s.Designed) (allowed := AsDesigned)
    (fun same ⟨inv, des⟩ => ⟨inv.of_essence same, des.of_essence same⟩)
    (fun i s allowed ⟨inv, des⟩ r t done => ⟨ruleOf_inv i inv r t done, ruleOf_designed i allowed inv des r t done⟩)
    (fun ⟨inv, _⟩ => ⟨State.resetOf_inv inv.cfgValid, State.resetOf_designed inv.cfgValid⟩) ⟨inv, des⟩ run issued
  exact both.2

end Sys2Proof.Machine

/-! PROOFS of the storage's statements (20_memory.md): the order of the bytes in flight (O57, O58, R70). -/

namespace Sys2Proof.Machine

/-! ### The unread content of a Buffer (R22, R120, R122) -/

section Content

variable {s t : State} {h : Handle}

/-- The content of a Buffer depends on its cursors and its bytes only, not on whether it is closed. -/
theorem State.content_congr (put : (t.buf h).put = (s.buf h).put) (get : (t.buf h).get = (s.buf h).get)
    (bytes : ∀ i, t.byteAt h i = s.byteAt h i) : t.content h = s.content h := by
  unfold State.content Buf.count
  rw [put, get]
  exact List.map_congr_left fun i _ => bytes _

theorem State.content_of_empty (empty : (s.buf h).Empty) : s.content h = [] := by
  have none : (s.buf h).count = 0 := Nat.sub_eq_zero_of_le empty
  rw [State.content, none]
  rfl

theorem State.content_setBuf_other (x : Buf) {h' : Handle} (l : isLegalHandle s.cfg h) (l' : isLegalHandle s.cfg h')
    (ne : h' ≠ h) : (s.setBuf h x).content h' = s.content h' := by
  have buf := State.buf_setBuf_other x l l' ne
  exact State.content_congr (by rw [buf]) (by rw [buf]) fun _ => rfl

theorem State.content_setBuf_same {x : Buf} (len : s.bufs.length = 4 + s.cfg.poolSize) (l : isLegalHandle s.cfg h)
    (put : x.put = (s.buf h).put) (get : x.get = (s.buf h).get) : (s.setBuf h x).content h = s.content h := by
  have buf := State.buf_setBuf_same x len l
  exact State.content_congr (by rw [buf, put]) (by rw [buf, get]) fun _ => rfl

/-- A stored byte is the last of the content (R120). -/
theorem State.content_stored (b : Byte) (fits : s.StorageOk) (l : isLegalHandle s.cfg h) :
    (s.stored h b).content h = s.content h ++ [b] := by
  have order : (s.buf h).get ≤ (s.buf h).put := (fits.cursors h l).1
  have buf : (s.stored h b).buf h = (s.buf h).pushed (s.cap h) := by rw [State.buf_stored b fits.count l l, if_pos rfl]
  have count : ((s.buf h).pushed (s.cap h)).count = (s.buf h).count + 1 := Nat.succ_sub order
  have byte (i : Nat) : (s.stored h b).byteAt h i = if i = (s.buf h).put then b else s.byteAt h i :=
    (s.byteAt_write h h _ i b).trans (by simp)
  have last : (s.buf h).get + (s.buf h).count = (s.buf h).put := Nat.add_sub_cancel' order
  unfold State.content
  rw [buf, count, List.range_succ, List.map_append]
  congr 1
  · refine List.map_congr_left fun i mem => ?_
    have before : i < (s.buf h).count := List.mem_range.mp mem
    show (s.stored h b).byteAt h ((s.buf h).get + i) = _
    rw [byte, if_neg (by omega)]
  · show [(s.stored h b).byteAt h ((s.buf h).get + (s.buf h).count)] = [b]
    rw [byte, if_pos last]

/-- A read takes the first byte of the content (R122). -/
theorem State.content_popped (fits : s.StorageOk) (l : isLegalHandle s.cfg h) (unread : ¬ (s.buf h).Empty) :
    s.content h = s.byteAt h (s.buf h).get :: (s.setBuf h (s.buf h).popped).content h := by
  have buf := State.buf_setBuf_same (s.buf h).popped fits.count l
  have count : (s.buf h).count = (s.buf h).popped.count + 1 := by
    show (s.buf h).put - (s.buf h).get = (s.buf h).put - ((s.buf h).get + 1) + 1
    omega
  unfold State.content
  rw [buf, count, List.range_succ_eq_map, List.map_cons, List.map_map]
  refine congrArg _ (List.map_congr_left fun i _ => ?_)
  show s.byteAt h ((s.buf h).get + (i + 1)) = s.byteAt h ((s.buf h).get + 1 + i)
  rw [Nat.add_assoc, Nat.add_comm 1 i]

end Content

/-! ### The bytes in flight (R70) -/

section InFlight

variable {s t u : State} {d d' : DbSel} {h : Handle} {b : Byte}

theorem State.inFlight_congr (aw : t.aw d = s.aw d) (bufs : ∀ a, t.buf (slotHandle d a) = s.buf (slotHandle d a))
    (bytes : ∀ a i, t.byteAt (slotHandle d a) i = s.byteAt (slotHandle d a) i) : t.inFlight d = s.inFlight d := by
  have same (a : Bool) : t.content (slotHandle d a) = s.content (slotHandle d a) :=
    State.content_congr (by rw [bufs]) (by rw [bufs]) (bytes a)
  unfold State.inFlight State.rh State.wh
  rw [aw, same, same]

/-- The part of the two invariants that the flow through the pairs rests on; the clauses on the sequencers, the pool
and the queues are not needed. -/
structure State.PairsOk (s : State) : Prop where
  valid : s.cfg.Valid
  storage : s.StorageOk
  pairs : ∀ d, PairFits s d

theorem State.PairsOk.of_designed (inv : s.Inv) (des : s.Designed) : s.PairsOk :=
  ⟨inv.cfgValid, (State.inv_iff.mp inv).2.1, (State.designed_iff.mp des).1⟩

theorem PairStep.pairsOk (x : PairStep d s t) (ok : s.PairsOk) : t.PairsOk where
  valid := x.cfg ▸ ok.valid
  storage := x.storage ok.storage
  pairs d' := by
    by_cases e : d' = d
    · subst e
      exact x.pair ok.valid ok.storage (ok.pairs d')
    · exact (ok.pairs d').of_kept x.cfg (x.selector d' e) fun a =>
        x.buffers _ (.inl (slotHandle_lt d' a)) fun a' => slotHandle_ne e a' a

/-- What happens to the bytes in flight in the pair `d` on the way from `s` to `t`: `taken` leave at the front, `added`
enter at the end, and the other pair keeps its own. -/
structure Moves (d : DbSel) (taken added : List Byte) (s t : State) : Prop where
  flow : taken ++ t.inFlight d = s.inFlight d ++ added
  others : ∀ d', d' ≠ d → t.inFlight d' = s.inFlight d'

theorem Moves.trans {taken taken' added added' : List Byte} (x : Moves d taken added s t)
    (y : Moves d taken' added' t u) : Moves d (taken ++ taken') (added ++ added') s u where
  flow := by rw [List.append_assoc, y.flow, ← List.append_assoc, x.flow, List.append_assoc]
  others d' ne := (y.others d' ne).trans (x.others d' ne)

theorem Moves.of_same (same : ∀ d, t.inFlight d = s.inFlight d) : Moves d [] [] s t where
  flow := (same d).trans (List.append_nil _).symm
  others d' _ := same d'

/-- Where nothing is taken or added in one pair, nothing moves in either. -/
theorem Moves.same (x : Moves d [] [] s t) (d' : DbSel) : t.inFlight d' = s.inFlight d' := by
  by_cases e : d' = d
  · subst e
    exact x.flow.trans (List.append_nil _)
  · exact x.others d' e

/-- An operation on a pair that writes no byte of a Buffer outside it moves bytes in that pair only. -/
theorem PairStep.moves {taken added : List Byte} (x : PairStep d s t)
    (bytes : ∀ h i, (∀ a, h ≠ slotHandle d a) → t.byteAt h i = s.byteAt h i)
    (flow : taken ++ t.inFlight d = s.inFlight d ++ added) : Moves d taken added s t where
  flow := flow
  others d' ne := State.inFlight_congr (x.selector d' ne)
    (fun a => x.buffers _ (.inl (slotHandle_lt d' a)) fun a' => slotHandle_ne ne a' a)
    fun a i => bytes _ i fun a' => slotHandle_ne ne a' a

theorem State.byteAt_swapped (s : State) (d : DbSel) (h : Handle) (i : Nat) :
    (s.swapped d).byteAt h i = s.byteAt h i := by cases d <;> rfl

/-- A swap (R147) changes no order: the read buffer is drained, and the write buffer becomes the read buffer. -/
theorem Moves.swapped (ok : s.PairsOk) (ready : s.Swappable d) : Moves d [] [] s (s.swapped d) := by
  refine (PairStep.swapped ready).moves (fun h i _ => s.byteAt_swapped d h i) ?_
  have drained : s.content (s.rh d) = [] := State.content_of_empty ((ok.pairs d).openReadEmpty ready.1)
  have read : (s.swapped d).content (s.wh d) = s.content (s.wh d) := by
    have buf : (s.swapped d).buf (s.wh d) = s.buf (s.wh d) := by
      rw [State.buf_swapped ok.storage.count (s.wh_legal d), if_neg (s.wh_ne_rh d)]
    exact State.content_congr (by rw [buf]) (by rw [buf]) (s.byteAt_swapped d _)
  have write : (s.swapped d).content (s.rh d) = [] := by
    refine State.content_of_empty ?_
    rw [State.buf_swapped ok.storage.count (s.rh_legal d), if_pos rfl]
    exact Nat.le_refl 0
  unfold State.inFlight
  rw [State.swapped_rh, State.swapped_wh, read, write, drained]
  rfl

theorem Moves.swappedIf (ok : s.PairsOk) : Moves d [] [] s (s.swappedIf d) := by
  unfold State.swappedIf
  split
  case isTrue ready => exact .swapped ok ready
  case isFalse => exact .of_same fun _ => rfl

theorem Moves.readyToPut (ok : s.PairsOk) (ready : (s.buf (s.wh d)).closed = true → s.Swappable d) :
    Moves d [] [] s (s.readyToPut d) := by
  unfold State.readyToPut
  split
  case isTrue closed => exact .swapped ok (ready closed)
  case isFalse => exact .of_same fun _ => rfl

/-- A pair made ready for a byte has its write buffer open (R173, R174). -/
theorem State.readyToPut_opened (ok : s.PairsOk) :
    ((s.readyToPut d).buf ((s.readyToPut d).wh d)).closed = false := by
  unfold State.readyToPut
  split
  case isTrue =>
    rw [State.swapped_wh, State.buf_swapped ok.storage.count (s.rh_legal d), if_pos rfl]
    rfl
  case isFalse opened => exact Bool.eq_false_of_not_eq_true opened

/-! #### A put and a take -/

/-- The producer's put into an open write buffer, which is never full (R143, R173 (c)). -/
theorem opDbPut_producer (ok : s.PairsOk) (opened : (s.buf (s.wh d)).closed = false) (b : Byte) :
    opDbPut (producer d) d b s = .done (.ok 0) (s.stored (s.wh d) b) :=
  have room : (s.buf (s.wh d)).Writable (s.cap (s.wh d)) := ⟨opened, (ok.pairs d).openWriteRoom opened⟩
  opDbPut_eq_done.mpr ⟨rfl, opBufWrite_eq_done.mpr ⟨s.wh_legal d, s.agentOwning_wh d, .inr ⟨room, rfl, rfl⟩⟩⟩

theorem Moves.stored (ok : s.PairsOk) (opened : (s.buf (s.wh d)).closed = false) :
    Moves d [] [b] s (s.stored (s.wh d) b) := by
  have step := opDbPut_pairStep _ _ _ _ _ _ (opDbPut_producer ok opened b)
  refine step.moves (fun h i other => ?_) ?_
  · exact (s.byteAt_write (s.wh d) h _ i b).trans (if_neg fun e => other _ e.1)
  · have read : (s.stored (s.wh d) b).content (s.rh d) = s.content (s.rh d) := by
      have buf : (s.stored (s.wh d) b).buf (s.rh d) = s.buf (s.rh d) := by
        rw [State.buf_stored b ok.storage.count (s.wh_legal d) (s.rh_legal d), if_neg (s.wh_ne_rh d).symm]
      exact State.content_congr (by rw [buf]) (by rw [buf]) fun i =>
        (s.byteAt_write (s.wh d) (s.rh d) _ i b).trans (if_neg fun e => s.wh_ne_rh d e.1.symm)
    calc (s.stored (s.wh d) b).content (s.rh d) ++ (s.stored (s.wh d) b).content (s.wh d)
        = s.content (s.rh d) ++ (s.content (s.wh d) ++ [b]) := by
          rw [read, State.content_stored b ok.storage (s.wh_legal d)]
      _ = s.inFlight d ++ [b] := (List.append_assoc ..).symm

/-- The pair after the consumer took the first byte in flight (R145). -/
def State.taken (s : State) (d : DbSel) : State := s.setBuf (s.rh d) (s.buf (s.rh d)).popped

/-- The first byte in flight, where the read buffer holds one. -/
def State.firstByte (s : State) (d : DbSel) : Byte := s.byteAt (s.rh d) (s.buf (s.rh d)).get

/-- The consumer's take of an unread byte (R145). -/
theorem opDbTake_consumer (ok : s.PairsOk) (unread : ¬ (s.buf (s.rh d)).Empty) :
    opDbTake (consumer d) d s = .done (.ok (s.firstByte d)) (s.taken d) := by
  have inside : (s.buf (s.rh d)).get < s.cap (s.rh d) :=
    (Nat.lt_of_not_le unread).trans_le (ok.storage.cursors _ (s.rh_legal d)).2
  exact opDbTake_eq_done.mpr
    ⟨rfl, opBufRead_eq_done.mpr ⟨s.rh_legal d, s.agentOwning_rh d, .inr ⟨unread, inside, rfl, rfl⟩⟩⟩

theorem Moves.taken (ok : s.PairsOk) (unread : ¬ (s.buf (s.rh d)).Empty) :
    Moves d [s.firstByte d] [] s (s.taken d) := by
  have step := opDbTake_pairStep _ _ _ _ _ (opDbTake_consumer ok unread)
  refine step.moves (fun _ _ _ => rfl) ?_
  have write : (s.taken d).content (s.wh d) = s.content (s.wh d) :=
    State.content_setBuf_other _ (s.rh_legal d) (s.wh_legal d) (s.wh_ne_rh d)
  have read : s.content (s.rh d) = s.firstByte d :: (s.taken d).content (s.rh d) :=
    State.content_popped ok.storage (s.rh_legal d) unread
  calc [s.firstByte d] ++ ((s.taken d).content (s.rh d) ++ (s.taken d).content (s.wh d))
      = (s.firstByte d :: (s.taken d).content (s.rh d)) ++ s.content (s.wh d) := by rw [write]; rfl
    _ = s.inFlight d ++ [] := by rw [← read, List.append_nil]; rfl

/-! #### The composite transport operations -/

theorem State.passed_of_put {a : Agent} {r : Reply} (ok : s.PairsOk)
    (ready : (s.buf (s.wh d)).closed = true → s.Swappable d) (producer : a = producer d)
    (put : opDbPut a d b (s.readyToPut d) = .done r t) : t.swappedIf d = s.passed d b := by
  subst producer
  have stored := opDbPut_producer ((PairStep.readyToPut ready).pairsOk ok) (State.readyToPut_opened ok) b
  obtain ⟨-, rfl⟩ := Res.done_eq_done.mp (stored.symm.trans put)
  rfl

/-- A byte passed into a pair enters at the end, whichever swaps that takes (R173, R174). -/
theorem Moves.passed (ok : s.PairsOk) (ready : (s.buf (s.wh d)).closed = true → s.Swappable d) :
    Moves d [] [b] s (s.passed d b) := by
  have prepared : PairStep d s (s.readyToPut d) := .readyToPut ready
  have opened := State.readyToPut_opened (d := d) ok
  have stored := opDbPut_pairStep _ _ _ _ _ _ (opDbPut_producer (prepared.pairsOk ok) opened b)
  have ok' := prepared.pairsOk ok
  exact ((Moves.readyToPut ok ready).trans (.stored ok' opened)).trans (.swappedIf (stored.pairsOk ok'))

/-- The pair with its write buffer closed (R175, R176). -/
def State.writeClosed (s : State) (d : DbSel) : State := s.setBuf (s.wh d) { s.buf (s.wh d) with closed := true }

theorem PairStep.writeClosed (holds : 0 < (s.buf (s.wh d)).put) : PairStep d s (s.writeClosed d) :=
  have close := opBufClose_eq_done.mpr ⟨s.wh_legal d, s.agentOwning_wh d, rfl, rfl⟩
  (opBufClose_bufferStep _ _ _ _ _ close).pairStep fun fits pair =>
    pair.setWrite fits.count pair.writeUnread nofun fun _ => holds

theorem Moves.writeClosed (ok : s.PairsOk) (holds : 0 < (s.buf (s.wh d)).put) : Moves d [] [] s (s.writeClosed d) := by
  refine (PairStep.writeClosed holds).moves (fun _ _ _ => rfl) ?_
  have read : (s.writeClosed d).content (s.rh d) = s.content (s.rh d) :=
    State.content_setBuf_other _ (s.wh_legal d) (s.rh_legal d) (s.wh_ne_rh d).symm
  have write : (s.writeClosed d).content (s.wh d) = s.content (s.wh d) :=
    State.content_setBuf_same ok.storage.count (s.wh_legal d) rfl rfl
  calc (s.writeClosed d).content (s.rh d) ++ (s.writeClosed d).content (s.wh d)
      = s.content (s.rh d) ++ s.content (s.wh d) := by rw [read, write]
    _ = s.inFlight d ++ [] := (List.append_nil _).symm

/-- A flush closes and swaps, and leaves the bytes in flight as they are (R175, R176). -/
theorem Moves.pushedOut (ok : s.PairsOk) : Moves d [] [] s (s.pushedOut d) := by
  unfold State.pushedOut
  split
  case isFalse => exact .swappedIf ok
  case isTrue partly =>
    exact (Moves.writeClosed ok partly.2).trans (.swappedIf ((PairStep.writeClosed partly.2).pairsOk ok))

end InFlight

/-! ### Operations that move no byte -/

section Elsewhere

variable {s t u : State} {d : DbSel} {h : Handle} {b : Byte}

/-- What an operation outside the two pairs leaves alone: the selectors, the registers of the four slots and their
storage. -/
structure PairsKept (s t : State) : Prop where
  selector : ∀ d, t.aw d = s.aw d
  slots : ∀ d a, t.buf (slotHandle d a) = s.buf (slotHandle d a)
  bytes : ∀ d a i, t.byteAt (slotHandle d a) i = s.byteAt (slotHandle d a) i

theorem PairsKept.trans (x : PairsKept s t) (y : PairsKept t u) : PairsKept s u where
  selector d := (y.selector d).trans (x.selector d)
  slots d a := (y.slots d a).trans (x.slots d a)
  bytes d a i := (y.bytes d a i).trans (x.bytes d a i)

theorem PairsKept.inFlight (x : PairsKept s t) (d : DbSel) : t.inFlight d = s.inFlight d :=
  State.inFlight_congr (x.selector d) (x.slots d) (x.bytes d)

theorem PairsKept.pairsOk (x : PairsKept s t) (ok : s.PairsOk) (cfg : t.cfg = s.cfg) (storage : t.StorageOk) :
    t.PairsOk where
  valid := cfg ▸ ok.valid
  storage := storage
  pairs d := (ok.pairs d).of_kept cfg (x.selector d) (x.slots d)

/-- The registers of a pool Buffer are no slot's (R104). -/
theorem PairsKept.setBuf (l : isPoolHandle s.cfg h) (x : Buf) : PairsKept s (s.setBuf h x) where
  selector _ := s.setBuf_aw h x _
  slots d a := State.buf_setBuf_other x (.inr l) (.inl (slotHandle_lt d a)) (ne_slotHandle l d a).symm
  bytes _ _ _ := rfl

/-- The storage of a pool Buffer is no slot's (R52). -/
theorem PairsKept.stored (l : isPoolHandle s.cfg h) : PairsKept s (s.stored h b) where
  selector _ := State.setBuf_aw _ h _ _
  slots d a := State.buf_setBuf_other (s := { s with mem := s.mem.write (addr h (s.buf h).put) b }) _ (.inr l)
    (.inl (slotHandle_lt d a)) (ne_slotHandle l d a).symm
  bytes d a i := (s.byteAt_write h _ _ i b).trans (if_neg fun e => ne_slotHandle l d a e.1.symm)

/-- Every byte of a Buffer other than `h` is as before. -/
def BytesElsewhereKept (h : Handle) (s t : State) : Prop := ∀ h' i, h' ≠ h → t.byteAt h' i = s.byteAt h' i

theorem BytesElsewhereKept.of_mem (mem : t.mem = s.mem) (epoch : t.epoch = s.epoch) : BytesElsewhereKept h s t := by
  intro h' i _
  rw [State.byteAt, mem, epoch]
  rfl

/-- An operation on a Buffer writes storage of that Buffer only (R120 to R125). -/
theorem ruleOf_bytesElsewhereKept {i : Instr} (target : targetOf i = .buffer h) (s : State) :
    (ruleOf i s).Ensures fun _ t => BytesElsewhereKept h s t := by
  intro r t done
  cases i with
  | bufWrite h' b =>
    cases target
    obtain ⟨-, -, ⟨-, -, rfl⟩ | ⟨-, -, rfl⟩⟩ := opBufWrite_eq_done.mp done
    · exact .of_mem rfl rfl
    · exact fun h' i ne => (s.byteAt_write h h' _ i b).trans (if_neg fun e => ne e.1)
  | bufPeek h' =>
    obtain ⟨-, -, rfl, -⟩ := opBufPeek_eq_done.mp done
    exact .of_mem rfl rfl
  | bufRead h' =>
    obtain ⟨-, -, ⟨-, -, rfl⟩ | ⟨-, -, -, rfl⟩⟩ := opBufRead_eq_done.mp done
    · exact .of_mem rfl rfl
    · exact .of_mem rfl rfl
  | bufClose h' =>
    obtain ⟨-, -, -, rfl⟩ := opBufClose_eq_done.mp done
    exact .of_mem rfl rfl
  | bufOpen h' =>
    obtain ⟨-, -, -, rfl⟩ := opBufOpen_eq_done.mp done
    exact .of_mem rfl rfl
  | bufReset h' =>
    obtain ⟨-, -, -, rfl⟩ := opBufReset_eq_done.mp done
    exact .of_mem rfl rfl
  | _ => cases target

theorem BufferStep.pairsKept {a : Agent} (x : BufferStep a h s t) (l : isPoolHandle s.cfg h)
    (bytes : BytesElsewhereKept h s t) : PairsKept s t where
  selector _ := by rw [x.frame]; rfl
  slots d a := x.buffers _ (.inl (slotHandle_lt d a)) (by simpa using (ne_slotHandle l d a).symm)
  bytes d a i := bytes _ i (ne_slotHandle l d a).symm

/-- A turn of the Parser works on a pool Buffer and its own registers (R192 to R200). -/
theorem ParserStep.pairsKept (x : ParserStep b s t) (inv : s.Inv) : PairsKept s t := by
  cases x with
  | matched => exact ⟨fun _ => rfl, fun _ _ => rfl, fun _ _ _ => rfl⟩
  | mismatched | tooShort | rejected =>
    rw [enterRecovery_eq]
    exact ⟨fun _ => rfl, fun _ _ => rfl, fun _ _ _ => rfl⟩
  | scanned =>
    rw [scan_eq]
    exact ⟨fun _ => rfl, fun _ _ => rfl, fun _ _ _ => rfl⟩
  | @started p state length avail free room =>
    obtain ⟨l, -⟩ := inv.free_pool (pickFree_some free)
    have opened : PairsKept s (s.opened b p) :=
      have kept := PairsKept.setBuf l Buf.empty
      ⟨kept.selector, kept.slots, kept.bytes⟩
    have stored : PairsKept (s.opened b p) ((s.opened b p).stored (poolHandle p) b) := .stored l
    have kept := opened.trans stored
    exact ⟨kept.selector, kept.slots, kept.bytes⟩
  | @filled r h state cur owned room =>
    have kept : PairsKept s (s.stored h b) := .stored (inv.pcurPool h cur)
    exact ⟨kept.selector, kept.slots, kept.bytes⟩
  | @accepted h state cur owned =>
    have kept := PairsKept.setBuf (inv.pcurPool h cur) { s.buf h with closed := true }
    exact ⟨kept.selector, kept.slots, kept.bytes⟩

/-- No byte is taken from a pair, added to one or returned to the link. -/
structure BytesStay (s t : State) : Prop where
  inFlight : ∀ d, t.inFlight d = s.inFlight d
  tx : t.tx = s.tx

theorem BytesStay.trans (x : BytesStay s t) (y : BytesStay t u) : BytesStay s u :=
  ⟨fun d => (y.inFlight d).trans (x.inFlight d), y.tx.trans x.tx⟩

theorem PairsKept.bytesStay (x : PairsKept s t) (tx : t.tx = s.tx) : BytesStay s t := ⟨x.inFlight, tx⟩

theorem BytesStay.pushedOut (d : DbSel) (ok : s.PairsOk) : BytesStay s (s.pushedOut d) :=
  ⟨(Moves.pushedOut ok).same, congrArg Control.tx (PairStep.pushedOut d s).control⟩

end Elsewhere

/-! ### What each operation does to the bytes in flight -/

section Operations

variable {s t : State} {d : DbSel} {h : Handle} {b : Byte}

/-! #### The host (R256) -/

theorem not_done_of_notListed {α : Type} {a : Agent} {l : List Agent} {x : Res α} {v : α} (notListed : a ∉ l) :
    issuedBy a l x ≠ .done v t := fun done => notListed (issuedBy_eq_done.mp done).1

/-- The host moves no byte: it owns no slot, and the operations that put, take and swap are not its own. -/
theorem ruleOf_bytesStay_of_host (i : Instr) (host : s.port = .host) (ne : i ≠ .sysReset) (inv : s.Inv)
    (ok : s.PairsOk) : (ruleOf i s).Ensures fun _ t => BytesStay s t := by
  intro r t done
  have effect := ruleOf_targetStep i s r t done
  cases target : targetOf i with
  | nothing =>
    rw [target] at effect
    obtain rfl : t = s := effect
    exact ⟨fun _ => rfl, rfl⟩
  | buffer h =>
    rw [target, host] at effect
    have step : BufferStep .host h s t := effect
    exact (step.pairsKept (State.isPoolHandle_of_host step.owned)
      (ruleOf_bytesElsewhereKept target s r t done)).bytesStay (congrArg Control.tx step.storageStep.control)
  | pair d =>
    cases i with
    | dbPut d b | dbPeek d | dbTake d | dbSwap d =>
      exact absurd done (not_done_of_notListed (by rw [host]; cases d <;> decide))
    | trNext | trPutb b | trRxbyte b | trRxtmo => exact absurd done (not_done_of_notListed (by rw [host]; decide))
    | trFlush =>
      obtain ⟨-, flush⟩ := issuedBy_eq_done.mp done
      rw [closeAndSwap_eq] at flush
      obtain ⟨-, rfl⟩ := Res.done_eq_done.mp flush
      exact .pushedOut .egr ok
    | _ => cases target
  | more =>
    cases i with
    | trTxbyte | parFetch | parExec | frmStep => exact absurd done (not_done_of_notListed (by rw [host]; decide))
    | poolAlloc =>
      obtain ⟨-, p, free, rfl⟩ := opPoolAlloc_ensures _ _ _ _ done
      have kept := PairsKept.setBuf (inv.free_pool free).1 Buf.empty
      exact PairsKept.bytesStay ⟨kept.selector, kept.slots, kept.bytes⟩ rfl
    | poolFree h =>
      obtain ⟨-, -, -, rfl⟩ := opPoolFree_eq_done.mp done
      exact ⟨fun _ => rfl, rfl⟩
    | frmPost h =>
      obtain ⟨-, -, -, rfl⟩ := opFrmPost_ensures _ _ _ _ _ done
      exact ⟨fun _ => rfl, rfl⟩
    | outPop =>
      obtain ⟨h, rest, -, rfl⟩ := opOutPop_ensures _ _ _ _ done
      exact ⟨fun _ => rfl, rfl⟩
    | errPop =>
      obtain ⟨e, rest, -, rfl⟩ := opErrPop_ensures _ _ _ _ done
      exact ⟨fun _ => rfl, rfl⟩
    | sysReset => exact absurd rfl ne
    | _ => cases target

/-! #### The link's receiver and the Parser -/

theorem opTrRxtmo_bytesStay (a : Agent) (ok : s.PairsOk) : (opTrRxtmo a s).Ensures fun _ t => BytesStay s t := by
  unfold opTrRxtmo
  rw [closeAndSwap_eq]
  exact Res.Ensures.issuedBy (Res.ensures_done.mpr (.pushedOut .ing ok))

/-- A link byte is dropped only where both ingress buffers are closed (R174). -/
theorem opTrRxbyte_receiver (ok : s.PairsOk) (b : Byte) :
    opTrRxbyte .rx b s =
      if (s.buf (s.wh .ing)).closed = true ∧ ¬ s.Swappable .ing then .abort (.fault .rxOverrun)
      else .done (.ok 0) (s.passed .ing b) := by
  split
  case isTrue jammed =>
    unfold opTrRxbyte faultUnless
    rw [if_pos jammed.1, if_neg jammed.2]
    rfl
  case isFalse room =>
    have ready : (s.buf (s.wh .ing)).closed = true → s.Swappable .ing := fun closed =>
      Classical.byContradiction fun no => room ⟨closed, no⟩
    have put := opDbPut_producer ((PairStep.readyToPut ready).pairsOk ok) (State.readyToPut_opened ok) b
    exact opTrRxbyte_eq_done.mpr ⟨rfl, ready, rfl, _, _, put, rfl⟩

/-- The Parser's fetch latches the first byte in flight, or holds (R191). -/
theorem opParFetch_parser (ok : s.PairsOk) :
    opParFetch .parser s =
      if s.platch = none ∧ ¬ (s.buf (s.rh .ing)).Empty then
        .done (.ok 0) { s.taken .ing with platch := some (s.firstByte .ing) }
      else .abort .hold := by
  have listed : (Agent.parser ∈ [Agent.parser]) := List.mem_singleton_self _
  unfold opParFetch issuedBy faultUnless holdUnless
  rw [if_pos listed]
  by_cases latch : s.platch = none
  · by_cases empty : (s.buf (s.rh .ing)).Empty
    · rw [if_pos latch, if_neg (not_not.mpr empty), if_neg fun e => e.2 empty]
    · have next : opTrNext .parser s = .done (.ok (s.firstByte .ing)) (s.taken .ing) :=
        opTrNext_eq_done.mpr ⟨rfl, empty, (opDbTake_eq_done.mp (opDbTake_consumer ok empty)).2⟩
      rw [if_pos latch, if_pos empty, if_pos ⟨latch, empty⟩, next]
      rfl
  · rw [if_neg latch, if_neg fun e => latch e.1]

theorem opParExec_bytesStay (a : Agent) (inv : s.Inv) : (opParExec a s).Ensures fun _ t => BytesStay s t := by
  intro r t done
  obtain ⟨b, s', step, rfl⟩ := opParExec_ensures a s r t done
  have stay : BytesStay s s' := (step.pairsKept inv).bytesStay (congrArg Control.tx step.control)
  exact ⟨stay.inFlight, stay.tx⟩

/-! #### The Framer and the link's sender -/

/-- The Framer's send adds one byte to the end (R173). -/
theorem opTrPutb_moves (a : Agent) (ok : s.PairsOk) : (opTrPutb a b s).Ensures fun _ t => Moves .egr [] [b] s t := by
  intro r t done
  obtain ⟨-, can, -, r', s', put, rfl⟩ := opTrPutb_eq_done.mp done
  have ready : (s.buf (s.wh .egr)).closed = true → s.Swappable .egr := fun closed =>
    can.resolve_left (by simp [closed])
  rw [State.passed_of_put ok ready rfl put]
  exact .passed ok ready

theorem sendAndCount_moves {next : State → FState} (ok : s.PairsOk) :
    (sendAndCount b next s).Ensures fun _ t => Moves .egr [] [b] s t := by
  intro u t done
  obtain ⟨r, s', sent, rfl⟩ := sendAndCount_eq_done.mp done
  have moves := opTrPutb_moves _ ok _ _ sent
  exact ⟨moves.flow, moves.others⟩

/-- A turn of the Framer adds at most one byte to the egress pair's end. -/
def SendsAtMostOne (s t : State) : Prop := Moves .egr [] [] s t ∨ ∃ b, Moves .egr [] [b] s t

theorem frmIdle_sends (ok : s.PairsOk) : (frmIdle s).Ensures fun _ t => SendsAtMostOne s t := by
  have moves : Moves .egr [] [] s (s.swappedIf .egr) := .swappedIf ok
  unfold frmIdle
  rw [swapIfReady_swappedIf, Res.bind_done]
  split
  · exact Res.ensures_done.mpr (.inl ⟨moves.flow, moves.others⟩)
  · exact Res.Ensures.holdUnless (Res.ensures_done.mpr (.inl moves))

theorem frmPreamble_sends {i : Nat} (ok : s.PairsOk) : (frmPreamble i h s).Ensures fun _ t => SendsAtMostOne s t := by
  unfold frmPreamble
  split
  · exact Res.ensures_abort
  · exact Res.Ensures.holdUnless fun u t done => .inr ⟨_, sendAndCount_moves ok u t done⟩

/-- The byte sent is read from a pool Buffer, which moves nothing in the pairs (R223). -/
theorem frmPayload_sends (ok : s.PairsOk) (l : isPoolHandle s.cfg h) :
    (frmPayload h s).Ensures fun _ t => SendsAtMostOne s t := by
  refine Res.Ensures.holdUnless fun u t done => ?_
  obtain ⟨r, s1, read, done⟩ := Res.bind_eq_done.mp done
  have step : BufferStep .framer h s s1 := opBufRead_bufferStep _ _ _ _ _ read
  have elsewhere : BytesElsewhereKept h s s1 := by
    obtain ⟨-, -, ⟨-, -, rfl⟩ | ⟨-, -, -, rfl⟩⟩ := opBufRead_eq_done.mp read
    · exact .of_mem rfl rfl
    · exact .of_mem rfl rfl
  have kept := step.pairsKept l elsewhere
  have ok' : s1.PairsOk := kept.pairsOk ok (by rw [step.frame]) (step.storage ok.storage)
  exact .inr ⟨_, (Moves.of_same kept.inFlight).trans (sendAndCount_moves ok' u t done)⟩

/-- The checksum byte is sent, and the flush behind it moves nothing (R224). -/
theorem frmChecksum_sends (ok : s.PairsOk) : (frmChecksum h s).Ensures fun _ t => SendsAtMostOne s t := by
  refine Res.Ensures.holdUnless fun u t done => ?_
  obtain ⟨r, s1, sent, done⟩ := Res.bind_eq_done.mp done
  obtain ⟨_, s2, free, done⟩ := Res.bind_eq_done.mp done
  obtain ⟨-, -, -, rfl⟩ := opPoolFree_eq_done.mp free
  obtain ⟨_, s3, flush, done⟩ := Res.bind_eq_done.mp done
  obtain ⟨-, rfl⟩ := Res.done_eq_done.mp done
  obtain ⟨-, flush⟩ := issuedBy_eq_done.mp flush
  rw [closeAndSwap_eq] at flush
  obtain ⟨-, rfl⟩ := Res.done_eq_done.mp flush
  have ok1 : s1.PairsOk := (opTrPutb_pairStep _ _ _ _ _ sent).pairsOk ok
  have freed : PairsKept s1 { s1.finished h with fstate := s1.fstate } :=
    ⟨fun _ => rfl, fun _ _ => rfl, fun _ _ _ => rfl⟩
  have pushed : Moves .egr [] [] _ _ := .pushedOut (d := .egr) (freed.pairsOk ok1 rfl ok1.storage)
  have moves := ((opTrPutb_moves _ ok _ _ sent).trans (.of_same freed.inFlight)).trans pushed
  exact .inr ⟨_, moves.flow, moves.others⟩

theorem opFrmStep_sends (a : Agent) (inv : s.Inv) (ok : s.PairsOk) :
    (opFrmStep a s).Ensures fun _ t => SendsAtMostOne s t := by
  refine Res.Ensures.issuedBy <| Res.Ensures.bind (P := fun _ t => SendsAtMostOne s t) ?_ fun _ _ sends =>
    Res.ensures_done.mpr sends
  unfold frmArm
  split
  case h_1 => exact frmIdle_sends ok
  case h_2 => exact Res.ensures_abort
  case h_3 => exact frmPreamble_sends ok
  case h_4 h _ cur => exact frmPayload_sends ok (inv.fcurPool h cur)
  case h_5 => exact frmChecksum_sends ok

/-- The link's sender takes the first byte in flight, or holds (R177). -/
theorem opTrTxbyte_sender (ok : s.PairsOk) :
    opTrTxbyte .tx s =
      if (s.buf (s.rh .egr)).Empty then .abort .hold
      else .done (.ok (s.firstByte .egr)) { s.taken .egr with tx := s.tx ++ [s.firstByte .egr] } := by
  have listed : (Agent.tx ∈ [Agent.tx]) := List.mem_singleton_self _
  unfold opTrTxbyte issuedBy faultUnless holdUnless
  rw [if_pos listed]
  by_cases empty : (s.buf (s.rh .egr)).Empty
  · rw [if_neg (not_not.mpr empty), if_pos empty]
  · have take : opDbTake .tx .egr s = .done (.ok (s.firstByte .egr)) (s.taken .egr) := opDbTake_consumer ok empty
    rw [if_pos empty, if_neg empty, take]
    rfl

end Operations

/-! ### The order of the bytes (O57, O58) -/

section Order

variable {i : Instr} {s t : State} {b : Byte}

theorem entryState_bytesStay (i : Instr) (s : State) : BytesStay s (entryState i s) := by
  cases i with
  | trRxbyte b =>
    show BytesStay s (s.received b)
    unfold State.received
    split
    · exact ⟨fun _ => rfl, rfl⟩
    · exact ⟨fun _ => rfl, rfl⟩
  | _ => exact ⟨fun _ => rfl, rfl⟩

/-- The response moves no byte, and an operation that holds or faults moves none (R11). -/
theorem exec_done_or_bytesStay (run : exec i s = .next t) :
    (∃ r s', ruleOf i (entryState i s) = .done r s' ∧ BytesStay s' t) ∨ BytesStay s t := by
  have entry := entryState_bytesStay i s
  rw [exec_eq_respond, respond_eq_next] at run
  obtain ⟨r, s', done, rfl⟩ | ⟨-, rfl⟩ | ⟨f, -, rfl⟩ := run
  · exact .inl ⟨r, s', done, fun _ => rfl, rfl⟩
  · exact .inr ⟨entry.inFlight, entry.tx⟩
  · exact .inr ⟨entry.inFlight, entry.tx⟩

theorem exec_bytesStay (run : exec i s = .next t)
    (rule : (ruleOf i (entryState i s)).Ensures fun _ t => BytesStay (entryState i s) t) : BytesStay s t := by
  obtain ⟨r, s', done, after⟩ | stay := exec_done_or_bytesStay run
  · exact ((entryState_bytesStay i s).trans (rule r s' done)).trans after
  · exact stay

/-- The trace of the link is written by `TR.TXBYTE` and reset only (R43). -/
theorem exec_tx (run : exec i s = .next t) (noReset : i ≠ .sysReset) (noSend : i ≠ .trTxbyte) : t.tx = s.tx := by
  obtain ⟨-, -, -, -, -, -, -, tx⟩ := (onlyTheirOperationsWriteThem i s t run).2 noReset
  exact tx noSend

/-- The operations that carry a byte in or out for the agent that issues them in a block run as designed; the
Framer's turn is apart, as it carries none where it is idle. -/
def CarriesByte : Agent → Instr → Prop
  | .rx, .trRxbyte _ => True
  | .parser, .parFetch => True
  | .tx, .trTxbyte => True
  | _, _ => False

/-- Everything an operation of a block run as designed can do to the bytes in flight and the trace of the link. -/
inductive Traffic (s t : State) : Agent → Instr → Prop
  | received {b : Byte} (enters : Moves .ing [] [b] s t) (tx : t.tx = s.tx) : Traffic s t .rx (.trRxbyte b)
  | dropped {b : Byte} (stay : BytesStay s t) (overrun : t.fault = s.fault ||| FaultName.rxOverrun.mask) :
    Traffic s t .rx (.trRxbyte b)
  | fetched {b : Byte} (leaves : Moves .ing [b] [] s t) (latch : t.platch = some b) (tx : t.tx = s.tx) :
    Traffic s t .parser .parFetch
  | noByteToFetch (held : t = s.answer holdWord) : Traffic s t .parser .parFetch
  | framed (sends : SendsAtMostOne s t) (tx : t.tx = s.tx) : Traffic s t .framer .frmStep
  | sent {b : Byte} (leaves : Moves .egr [b] [] s t) (tx : t.tx = s.tx ++ [b]) : Traffic s t .tx .trTxbyte
  | noByteToSend (held : t = s.answer holdWord) : Traffic s t .tx .trTxbyte
  | stays {a : Agent} {i : Instr} (quiet : ¬ CarriesByte a i) (stay : BytesStay s t) : Traffic s t a i

theorem exec_trRxbyte_traffic (port : s.port = .rx) (ok : (s.received b).PairsOk)
    (run : exec (.trRxbyte b) s = .next t) : Traffic s t .rx (.trRxbyte b) := by
  have tx := exec_tx run nofun nofun
  have entry : BytesStay s (s.received b) := entryState_bytesStay (.trRxbyte b) s
  have rule := opTrRxbyte_receiver ok b
  change respond (s.received b) (opTrRxbyte s.port b (s.received b)) = .next t at run
  rw [port, rule] at run
  split at run
  case isTrue =>
    obtain rfl : takeFault (s.received b) .rxOverrun = t := by injection run
    refine .dropped ⟨entry.inFlight, entry.tx⟩ ?_
    show (s.received b).fault ||| _ = s.fault ||| _
    rw [State.received_fault]
  case isFalse room =>
    have ready : ((s.received b).buf ((s.received b).wh .ing)).closed = true → (s.received b).Swappable .ing :=
      fun closed => Classical.byContradiction fun no => room ⟨closed, no⟩
    obtain rfl : ((s.received b).passed .ing b).answer (Reply.ok 0).word = t := by injection run
    have moves := (Moves.of_same (d := .ing) entry.inFlight).trans (.passed (b := b) ok ready)
    exact .received ⟨moves.flow, moves.others⟩ tx

theorem exec_parFetch_traffic (port : s.port = .parser) (ok : s.PairsOk) (run : exec .parFetch s = .next t) :
    Traffic s t .parser .parFetch := by
  have tx := exec_tx run nofun nofun
  change respond s (opParFetch s.port s) = .next t at run
  rw [port, opParFetch_parser ok] at run
  split at run
  case isTrue ready =>
    obtain rfl : State.answer { s.taken .ing with platch := some (s.firstByte .ing) } (Reply.ok 0).word = t := by
      injection run
    have moves := Moves.taken ok ready.2
    exact .fetched ⟨moves.flow, moves.others⟩ rfl tx
  case isFalse =>
    obtain rfl : s.answer holdWord = t := by injection run
    exact .noByteToFetch rfl

theorem exec_trTxbyte_traffic (port : s.port = .tx) (ok : s.PairsOk) (run : exec .trTxbyte s = .next t) :
    Traffic s t .tx .trTxbyte := by
  change respond s (opTrTxbyte s.port s) = .next t at run
  rw [port, opTrTxbyte_sender ok] at run
  split at run
  case isTrue =>
    obtain rfl : s.answer holdWord = t := by injection run
    exact .noByteToSend rfl
  case isFalse unread =>
    obtain rfl : State.answer { s.taken .egr with tx := s.tx ++ [s.firstByte .egr] }
        (Reply.ok (s.firstByte .egr)).word = t := by injection run
    have moves := Moves.taken ok unread
    exact .sent ⟨moves.flow, moves.others⟩ rfl

theorem exec_frmStep_traffic (inv : s.Inv) (ok : s.PairsOk) (run : exec .frmStep s = .next t) :
    Traffic s t .framer .frmStep := by
  refine .framed ?_ (exec_tx run nofun nofun)
  obtain ⟨r, s', done, after⟩ | stay := exec_done_or_bytesStay run
  · have rest := Moves.of_same (d := .egr) after.inFlight
    obtain moves | ⟨b, moves⟩ := opFrmStep_sends _ inv ok r s' done
    · exact .inl (moves.trans rest)
    · exact .inr ⟨b, moves.trans rest⟩
  · exact .inl (.of_same stay.inFlight)

theorem exec_traffic (inv : s.Inv) (des : s.Designed) (allowed : AsDesigned s.port i) (noReset : i ≠ .sysReset)
    (run : exec i s = .next t) : Traffic s t s.port i := by
  have same := entryState_essence i s
  have inv' : (entryState i s).Inv := inv.of_essence same
  have ok' : (entryState i s).PairsOk := .of_designed inv' (des.of_essence same)
  cases port : s.port with
  | rx =>
    rw [port] at allowed
    obtain rfl | ⟨b, rfl⟩ := allowed
    · exact .stays nofun (exec_bytesStay run (opTrRxtmo_bytesStay _ ok'))
    · exact exec_trRxbyte_traffic port ok' run
  | parser =>
    rw [port] at allowed
    obtain rfl | rfl := allowed
    · exact exec_parFetch_traffic port ok' run
    · exact .stays nofun (exec_bytesStay run (opParExec_bytesStay _ inv'))
  | framer =>
    rw [port] at allowed
    obtain rfl := allowed
    exact exec_frmStep_traffic inv' ok' run
  | tx =>
    rw [port] at allowed
    obtain rfl := allowed
    exact exec_trTxbyte_traffic port ok' run
  | host =>
    have host : (entryState i s).port = .host := (entryState_port i s).trans port
    exact .stays nofun (exec_bytesStay run (ruleOf_bytesStay_of_host i host noReset inv' ok'))

/-- Settles O57: the cases of `Traffic`, on the ingress pair. -/
theorem ingressBytesKeepTheirOrder : Obligations.IngressBytesKeepTheirOrder := by
  intro i s t inv des allowed run noReset
  have traffic := exec_traffic inv des allowed noReset run
  refine ⟨?_, ?_, fun noByte noFetch => ?_⟩
  · rintro b rfl port
    rw [port] at traffic
    cases traffic with
    | received enters => exact .inl enters.flow
    | dropped stay overrun => exact .inr ⟨stay.inFlight .ing, overrun⟩
    | stays quiet => exact absurd trivial quiet
  · rintro rfl port
    rw [port] at traffic
    cases traffic with
    | fetched leaves latch => exact .inl ⟨_, latch, (List.append_nil _).symm.trans leaves.flow.symm⟩
    | noByteToFetch held => exact .inr held
    | stays quiet => exact absurd trivial quiet
  · generalize s.port = a at traffic noByte noFetch
    cases traffic with
    | received | dropped => exact absurd rfl (noByte _ rfl)
    | fetched | noByteToFetch => exact absurd rfl (noFetch rfl)
    | framed sends =>
      obtain moves | ⟨b, moves⟩ := sends
      · exact moves.same .ing
      · exact moves.others .ing nofun
    | sent leaves => exact leaves.others .ing nofun
    | noByteToSend held => rw [held]; rfl
    | stays _ stay => exact stay.inFlight .ing

theorem State.egressStream_congr (tx : t.tx = s.tx) (inFlight : t.inFlight .egr = s.inFlight .egr) :
    t.egressStream = s.egressStream := by
  unfold State.egressStream
  rw [tx, inFlight]

/-- What enters the egress pair lengthens the stream. -/
theorem Moves.egressStream (x : Moves .egr [] [b] s t) (tx : t.tx = s.tx) :
    t.egressStream = s.egressStream ++ [b] :=
  calc t.tx ++ t.inFlight .egr = s.tx ++ (s.inFlight .egr ++ [b]) := congrArg₂ _ tx x.flow
    _ = s.egressStream ++ [b] := (List.append_assoc ..).symm

/-- A byte on its way from the pair to the link does not change the stream. -/
theorem Moves.egressStream_sent (x : Moves .egr [b] [] s t) (tx : t.tx = s.tx ++ [b]) :
    t.egressStream = s.egressStream :=
  calc t.tx ++ t.inFlight .egr = s.tx ++ ([b] ++ t.inFlight .egr) := by rw [tx, List.append_assoc]
    _ = s.tx ++ s.inFlight .egr := by rw [x.flow, List.append_nil]

/-- Settles O58: the cases of `Traffic`, on the egress pair. -/
theorem egressBytesKeepTheirOrder : Obligations.EgressBytesKeepTheirOrder := by
  intro i s t inv des allowed run noReset
  have traffic := exec_traffic inv des allowed noReset run
  constructor
  · generalize s.port = a at traffic
    cases traffic with
    | received enters tx => exact .inl (State.egressStream_congr tx (enters.others .egr nofun))
    | fetched leaves _ tx => exact .inl (State.egressStream_congr tx (leaves.others .egr nofun))
    | dropped stay | stays _ stay => exact .inl (State.egressStream_congr stay.tx (stay.inFlight .egr))
    | noByteToFetch held | noByteToSend held => rw [held]; exact .inl rfl
    | framed sends tx =>
      obtain moves | ⟨b, moves⟩ := sends
      · exact .inl (State.egressStream_congr tx (moves.same .egr))
      · exact .inr ⟨rfl, rfl, b, moves.egressStream tx⟩
    | sent leaves tx => exact .inl (leaves.egressStream_sent tx)
  · rintro rfl port
    rw [port] at traffic
    cases traffic with
    | sent leaves tx => exact .inl ⟨_, tx, (List.append_nil _).symm.trans leaves.flow.symm⟩
    | noByteToSend held => exact .inr held
    | stays quiet => exact absurd trivial quiet

end Order

end Sys2Proof.Machine

/-! PROOFS of the storage's statements (20_memory.md): no step stops (O8, R63, R161, U19). -/

namespace Sys2Proof.Machine

/-! ### Operations that do not stop (R63, R161, U19) -/

/-- The operation is performed, holds or faults: it ends in none of the model's own stops (log entry 11). -/
def Res.NeverStops {α : Type} : Res α → Prop
  | .done _ _ | .abort .hold | .abort (.fault _) => True
  | .abort (.stop _) | .abort (.refuse _) => False

section NeverStops

variable {α β : Type} {x : Res α} {k : α → State → Res β} {s : State} {i : Nat} {h : Handle} {b : Byte}

theorem respond_of_neverStops {x : Res Reply} (goes : x.NeverStops) (s : State) : ∃ t, respond s x = .next t := by
  rcases x with ⟨r, t⟩ | _ | f | f | f
  · exact ⟨_, rfl⟩
  · exact ⟨_, rfl⟩
  · exact ⟨_, rfl⟩
  · exact goes.elim
  · exact goes.elim

/-- The later part is reached only where the first one is performed. -/
theorem Res.NeverStops.bind (first : x.NeverStops) (rest : ∀ v t, x = .done v t → (k v t).NeverStops) :
    (x.bind k).NeverStops := by
  rcases x with ⟨v, t⟩ | _ | f | f | f
  · exact rest v t rfl
  · trivial
  · trivial
  · exact first.elim
  · exact first.elim

theorem Res.NeverStops.holdUnless {c : Prop} [Decidable c] (goes : c → x.NeverStops) :
    (holdUnless c x).NeverStops := by
  unfold Machine.holdUnless
  split
  · exact goes ‹_›
  · trivial

theorem Res.NeverStops.faultUnless {c : Prop} [Decidable c] {f : FaultName} (goes : c → x.NeverStops) :
    (faultUnless c f x).NeverStops := by
  unfold Machine.faultUnless
  split
  · exact goes ‹_›
  · trivial

theorem Res.NeverStops.issuedBy {a : Agent} {l : List Agent} (goes : x.NeverStops) : (issuedBy a l x).NeverStops :=
  .faultUnless fun _ => goes

theorem Res.NeverStops.owning {a : Agent} (goes : isLegalHandle s.cfg h → x.NeverStops) :
    (owning a h s x).NeverStops :=
  .faultUnless fun l => .faultUnless fun _ => goes l

/-! #### The Buffers and the pairs: the addresses exist (R63) -/

/-- A byte is written below the capacity, as a full Buffer is not writable (R120). -/
theorem opBufWrite_neverStops (a : Agent) (h : Handle) (b : Byte) (s : State) : (opBufWrite a h b s).NeverStops := by
  refine .owning fun l => ?_
  split
  case isTrue room =>
    rw [(memWrite_eq_done (u := ())).mpr ⟨⟨l, room.2⟩, rfl⟩]
    trivial
  case isFalse => trivial

/-- The cursors are in order, so an unread byte stands below the capacity (R21). -/
theorem StorageFits.addrExists (fits : s.StorageOk) (l : isLegalHandle s.cfg h) (unread : ¬ (s.buf h).Empty) :
    s.addrExists h (s.buf h).get :=
  ⟨l, (Nat.lt_of_not_le unread).trans_le (fits.cursors h l).2⟩

theorem opBufPeek_neverStops (a : Agent) (h : Handle) (fits : s.StorageOk) : (opBufPeek a h s).NeverStops := by
  refine .owning fun l => ?_
  split
  case isTrue => trivial
  case isFalse unread =>
    rw [memRead_eq_done.mpr ⟨fits.addrExists l unread, rfl, rfl⟩]
    trivial

theorem opBufRead_neverStops (a : Agent) (h : Handle) (fits : s.StorageOk) : (opBufRead a h s).NeverStops := by
  refine .owning fun l => ?_
  split
  case isTrue => trivial
  case isFalse unread =>
    rw [memRead_eq_done.mpr ⟨fits.addrExists l unread, rfl, rfl⟩]
    trivial

theorem opDbSwap_neverStops (a : Agent) (d : DbSel) (s : State) : (opDbSwap a d s).NeverStops :=
  .issuedBy <| .faultUnless fun _ => trivial

theorem opDbTake_neverStops (a : Agent) (d : DbSel) (fits : s.StorageOk) : (opDbTake a d s).NeverStops :=
  .issuedBy (opBufRead_neverStops a _ fits)

theorem closeAndSwap_neverStops (d : DbSel) (s : State) : (closeAndSwap d s).NeverStops := by
  rw [closeAndSwap_eq]
  trivial

theorem opTrNext_neverStops (a : Agent) (fits : s.StorageOk) : (opTrNext a s).NeverStops :=
  .issuedBy <| .holdUnless fun _ => opDbTake_neverStops a .ing fits

theorem putAndSwap_neverStops (a : Agent) (d : DbSel) (b : Byte) (s : State) :
    ((opDbPut a d b s).bind fun _ s2 => (swapIfReady d s2).bind fun _ s3 => .done (Reply.ok 0) s3).NeverStops :=
  .bind (.issuedBy (opBufWrite_neverStops a _ b s)) fun _ s2 _ => by
    rw [swapIfReady_swappedIf]
    trivial

theorem opTrPutb_neverStops (a : Agent) (b : Byte) (s : State) : (opTrPutb a b s).NeverStops := by
  refine .issuedBy <| .holdUnless fun _ => .bind ?_ fun _ s1 _ => putAndSwap_neverStops a .egr b s1
  split
  · exact .bind (opDbSwap_neverStops a .egr s) fun _ _ _ => trivial
  · trivial

theorem opTrRxbyte_neverStops (a : Agent) (b : Byte) (s : State) : (opTrRxbyte a b s).NeverStops := by
  refine .issuedBy <| .bind ?_ fun _ s1 _ => putAndSwap_neverStops a .ing b s1
  split
  · exact .faultUnless fun _ => .bind (opDbSwap_neverStops a .ing s) fun _ _ _ => trivial
  · trivial

theorem opTrTxbyte_neverStops (a : Agent) (fits : s.StorageOk) : (opTrTxbyte a s).NeverStops :=
  .issuedBy <| .holdUnless fun _ => .bind (opDbTake_neverStops a .egr fits) fun _ _ _ => trivial

/-! #### The pool: the choice never fails (R161 (c)) -/

theorem allocate_neverStops (a : Agent) (counts : s.avail = s.owner.count .free) : (allocate a s).NeverStops := by
  refine .issuedBy <| .holdUnless fun avail => ?_
  obtain ⟨p, pick⟩ := pickFree_isSome s.pick (List.count_pos_iff.mp (counts ▸ avail))
  rw [pick]
  trivial

theorem opPoolFree_neverStops (a : Agent) (h : Handle) (s : State) : (opPoolFree a h s).NeverStops :=
  .faultUnless fun _ => .faultUnless fun _ => trivial

/-! #### The Parser: its registers are in range (R30, R32) -/

theorem storeByte_neverStops (h : Handle) (b : Byte) (s : State) : (storeByte h b s).NeverStops :=
  .bind (opBufWrite_neverStops .parser h b s) fun _ _ _ => .faultUnless fun _ => trivial

theorem parSeekPreamble_neverStops (range : i < s.cfg.k) : (parSeekPreamble i b s).NeverStops := by
  unfold parSeekPreamble
  rw [List.getElem?_eq_getElem range]
  dsimp only
  split
  · trivial
  · exact .holdUnless fun _ => trivial

theorem parLengthLegal_neverStops (counts : s.avail = s.owner.count .free) : (parLengthLegal b s).NeverStops :=
  .holdUnless fun _ =>
    .bind (allocate_neverStops (s := { s with pacc := s.pacc ^^^ b }) .parser counts) fun h _ _ =>
      .bind (storeByte_neverStops h b _) fun _ _ _ => trivial

theorem parChecksumGood_neverStops (h : Handle) (s : State) : (parChecksumGood h s).NeverStops :=
  .bind (.owning fun _ => trivial) fun _ _ _ => trivial

theorem parChecksumBad_neverStops (b : Byte) (h : Handle) (s : State) : (parChecksumBad b h s).NeverStops :=
  .holdUnless fun _ => .bind (opPoolFree_neverStops .parser h _) fun _ _ _ => trivial

theorem parReadPayload_neverStops {r : Nat} (pos : 1 ≤ r) (cur : s.pcur = some h) :
    (parReadPayload r b s).NeverStops := by
  unfold parReadPayload
  rw [cur]
  obtain _ | _ | r := r
  · cases pos
  · show (if checksumGood s.pacc b then parChecksumGood h s else parChecksumBad b h s).NeverStops
    split
    · exact parChecksumGood_neverStops h s
    · exact parChecksumBad_neverStops b h s
  · exact .bind (storeByte_neverStops h b _) fun _ _ _ => trivial

theorem parErrorRecovery_neverStops (range : i < s.cfg.k) : (parErrorRecovery i b s).NeverStops := by
  unfold parErrorRecovery
  rw [if_pos range]
  trivial

theorem parArm_neverStops (b : Byte) (inv : s.Inv) : (parArm b s).NeverStops := by
  have range := inv.pstateRange
  unfold parArm
  split
  case h_1 i state =>
    rw [state] at range
    exact parSeekPreamble_neverStops range
  case h_2 =>
    split
    · exact parLengthLegal_neverStops inv.availCounts
    · exact .holdUnless fun _ => trivial
  case h_3 r state =>
    rw [state] at range
    obtain ⟨h, cur⟩ := Option.isSome_iff_exists.mp (inv.pcurValid.mpr ⟨r, state⟩)
    exact parReadPayload_neverStops range.1 cur
  case h_4 i state =>
    rw [state] at range
    exact parErrorRecovery_neverStops range

theorem opParFetch_neverStops (a : Agent) (fits : s.StorageOk) : (opParFetch a s).NeverStops := by
  refine .issuedBy <| .holdUnless fun _ => .holdUnless fun _ => .bind (opTrNext_neverStops a fits) fun r _ _ => ?_
  cases r <;> trivial

theorem opParExec_neverStops (a : Agent) (inv : s.Inv) : (opParExec a s).NeverStops := by
  refine .issuedBy ?_
  split
  · trivial
  · exact .bind (parArm_neverStops _ inv) fun _ _ _ => trivial

/-! #### The Framer: its registers are in range (R36, R38) -/

theorem sendAndCount_neverStops (b : Byte) (next : State → FState) (s : State) : (sendAndCount b next s).NeverStops :=
  .bind (opTrPutb_neverStops .framer b s) fun _ _ _ => trivial

theorem frmIdle_neverStops (s : State) : (frmIdle s).NeverStops := by
  unfold frmIdle
  rw [swapIfReady_swappedIf, Res.bind_done]
  split
  · trivial
  · exact .holdUnless fun _ => trivial

theorem frmPreamble_neverStops (range : i < s.cfg.k) : (frmPreamble i h s).NeverStops := by
  unfold frmPreamble
  rw [List.getElem?_eq_getElem range]
  exact .holdUnless fun _ => sendAndCount_neverStops _ _ s

theorem frmPayload_neverStops (h : Handle) (fits : s.StorageOk) : (frmPayload h s).NeverStops :=
  .holdUnless fun _ => .bind (opBufRead_neverStops .framer h fits) fun _ s1 _ => sendAndCount_neverStops _ _ s1

theorem frmChecksum_neverStops (h : Handle) (s : State) : (frmChecksum h s).NeverStops :=
  .holdUnless fun _ => .bind (opTrPutb_neverStops .framer s.facc s) fun _ _ _ =>
    .bind (opPoolFree_neverStops .framer h _) fun _ _ _ =>
      .bind (.issuedBy (closeAndSwap_neverStops .egr _)) fun _ _ _ => trivial

theorem frmArm_neverStops (inv : s.Inv) : (frmArm s).NeverStops := by
  have fits : s.StorageOk := (State.inv_iff.mp inv).2.1
  have range := inv.fstateRange
  unfold frmArm
  split
  case h_1 => exact frmIdle_neverStops s
  case h_2 noCur busy =>
    have cur := inv.fcurValid.mpr busy
    rw [noCur] at cur
    cases cur
  case h_3 i h state cur =>
    rw [state] at range
    exact frmPreamble_neverStops range
  case h_4 h state cur => exact frmPayload_neverStops h fits
  case h_5 h state cur => exact frmChecksum_neverStops h s

/-! #### All operations -/

theorem ruleOf_neverStops (i : Instr) (inv : s.Inv) : (ruleOf i s).NeverStops := by
  have fits : s.StorageOk := (State.inv_iff.mp inv).2.1
  cases i with
  | bufWrite h b => exact opBufWrite_neverStops _ h b s
  | bufPeek h => exact opBufPeek_neverStops _ h fits
  | bufRead h => exact opBufRead_neverStops _ h fits
  | bufClose h | bufOpen h | bufReset h => exact .owning fun _ => trivial
  | bufIsclosed h | bufIsempty h => exact .faultUnless fun _ => trivial
  | dbWhandle d | dbRhandle d | dbSwappable d => trivial
  | dbPut d b => exact .issuedBy (opBufWrite_neverStops _ _ b s)
  | dbPeek d => exact .issuedBy (opBufPeek_neverStops _ _ fits)
  | dbTake d => exact opDbTake_neverStops _ d fits
  | dbSwap d => exact opDbSwap_neverStops _ d s
  | poolAlloc => exact .bind (allocate_neverStops _ inv.availCounts) fun _ _ _ => trivial
  | poolFree h => exact opPoolFree_neverStops _ h s
  | trNext => exact opTrNext_neverStops _ fits
  | trPutb b => exact opTrPutb_neverStops _ b s
  | trFlush => exact .issuedBy (closeAndSwap_neverStops .egr s)
  | trRxbyte b => exact opTrRxbyte_neverStops _ b s
  | trRxtmo => exact .issuedBy (closeAndSwap_neverStops .ing s)
  | trTxbyte => exact opTrTxbyte_neverStops _ fits
  | parFetch => exact opParFetch_neverStops _ fits
  | parExec => exact opParExec_neverStops _ inv
  | frmStep => exact .issuedBy (.bind (frmArm_neverStops inv) fun _ _ _ => trivial)
  | frmPost h => exact .faultUnless fun _ => .issuedBy <| .faultUnless fun _ => .faultUnless fun _ => trivial
  | outPop | errPop =>
    refine .issuedBy ?_
    split
    · trivial
    · trivial
  | sysReset => exact .issuedBy trivial

theorem exec_next (i : Instr) (inv : s.Inv) : ∃ t, exec i s = .next t := by
  rw [exec_eq_respond]
  exact respond_of_neverStops (ruleOf_neverStops i (inv.of_essence (entryState_essence i s))) _

end NeverStops

/-- Settles O8: the configuration is valid, and no operation stops. -/
theorem noStepStops : Obligations.NoStepStops := by
  intro s inv
  match waits : s.pending with
  | [] => exact ⟨_, step_of_idle inv.cfgValid waits⟩
  | .rst :: rest => exact ⟨_, step_of_rst inv.cfgValid waits⟩
  | .command a w n :: rest =>
    cases decoded : decode s.cfg w with
    | ok i =>
      rw [step_of_command inv.cfgValid waits decoded]
      exact exec_next i (State.Inv.of_essence (s := s) rfl inv)
    | error e => exact ⟨rejectWord (s.serve a n rest), by simp only [step, if_pos inv.cfgValid, waits, decoded]⟩

end Sys2Proof.Machine

/-! PROOFS of the encoding's statements (30_encoding.md): decoding and encoding (O1, O2, O4), the reserved
words (O3). -/

namespace Sys2Proof

open Machine

/-! ### The fields of a word (R101) -/

section Fields

variable (op a1 a0 : Byte) (w : CmdWord)

@[simp] theorem opField_wordOf : opField (wordOf op a1 a0) = op := by
  unfold opField wordOf
  rw [BitVec.extractLsb'_append_eq_of_le (by decide), BitVec.extractLsb'_append_eq_of_le (by decide),
    BitVec.extractLsb'_eq_self]

@[simp] theorem a1Field_wordOf : a1Field (wordOf op a1 a0) = a1 := by
  unfold a1Field wordOf
  rw [BitVec.extractLsb'_append_eq_of_le (by decide), BitVec.extractLsb'_append_eq_of_add_le (by decide),
    BitVec.extractLsb'_eq_self]

@[simp] theorem a0Field_wordOf : a0Field (wordOf op a1 a0) = a0 := by
  unfold a0Field wordOf
  rw [BitVec.extractLsb'_append_eq_of_add_le (by decide), BitVec.extractLsb'_eq_self]

/-- A word is nothing but its three fields. -/
theorem wordOf_fields : wordOf (opField w) (a1Field w) (a0Field w) = w := by
  have high : opField w ++ a1Field w = w.extractLsb' 8 16 := BitVec.extractLsb'_append_extractLsb'_eq_extractLsb' rfl
  rw [wordOf, high]
  exact BitVec.extractLsb'_append_extractLsb'

end Fields

/-! ### Reading the operands (R103, R104, R108) -/

section Operands

variable {α : Type} {p : Prop} [Decidable p] {e : DecodeError} {u v : α}
variable {c : Config} {a1 a0 : Byte} {h : Handle} {d : DbSel} {i j : Instr}

/-- A check of R108 that passes. -/
theorem check_eq_ok : (if p then .ok v else .error e : Except DecodeError α) = .ok u ↔ p ∧ v = u := by
  split_ifs with holds
  · rw [Except.ok.injEq, and_iff_right holds]
  · exact ⟨nofun, fun passed => absurd passed.1 holds⟩

theorem readHandle_eq_ok : readHandle c a1 = .ok h ↔ isLegalHandle c a1 ∧ a1 = h := check_eq_ok

theorem unusedA1_eq_ok : unusedA1 a1 j = .ok i ↔ a1 = 0 ∧ j = i := check_eq_ok

theorem unusedA0_eq_ok : unusedA0 a0 j = .ok i ↔ a0 = 0 ∧ j = i := check_eq_ok

theorem readSelect_eq_ok : readSelect a1 = .ok d ↔ a1 = selByte d := by
  unfold readSelect
  cases d with
  | ing => split_ifs <;> simp_all [selByte]
  | egr => split_ifs <;> simp_all [selByte]

theorem exists_eq_selByte : (∃ d, a1 = selByte d) ↔ a1 = 0 ∨ a1 = 1 :=
  ⟨fun ⟨d, e⟩ => by cases d with | ing => exact .inl e | egr => exact .inr e,
    fun e => e.elim (⟨.ing, ·⟩) (⟨.egr, ·⟩)⟩

end Operands

/-! ### Decoding by the opcode map (R106) -/

/-- The fields `a1` and `a0` are as the form allows, and the operation is the one they make (R103, R108). -/
def Form.Takes (c : Config) (a1 a0 : Byte) : Form → Instr → Prop
  | .handle mk, i => isLegalHandle c a1 ∧ a0 = 0 ∧ mk a1 = i
  | .handleByte mk, i => isLegalHandle c a1 ∧ mk a1 a0 = i
  | .select mk, i => ∃ d, a1 = selByte d ∧ a0 = 0 ∧ mk d = i
  | .selectByte mk, i => ∃ d, a1 = selByte d ∧ mk d a0 = i
  | .byte mk, i => a1 = 0 ∧ mk a0 = i
  | .plain j, i => a1 = 0 ∧ a0 = 0 ∧ j = i

section Decode

variable {c : Config} {w : CmdWord} {i : Instr}

theorem bind_eq_ok {α β : Type} {x : Except DecodeError α} {k : α → Except DecodeError β} {v : β} :
    x.bind k = .ok v ↔ ∃ u, x = .ok u ∧ k u = .ok v := by
  cases x with
  | ok u => simp [Except.bind]
  | error e => simp [Except.bind]

theorem map_eq_ok {α β : Type} {x : Except DecodeError α} {g : α → β} {v : β} :
    x.map g = .ok v ↔ ∃ u, x = .ok u ∧ g u = v := by
  cases x with
  | ok u => simp [Except.map]
  | error e => simp [Except.map]

/-- A word decodes where its opcode is in the map and its operands are as the opcode's form allows. -/
theorem decode_eq_ok :
    decode c w = .ok i ↔ ∃ f, formOf (opField w) = some f ∧ f.Takes c (a1Field w) (a0Field w) i := by
  unfold decode
  cases formOf (opField w) with
  | none => simp
  | some f =>
    simp only [Option.some.injEq, exists_eq_left']
    cases f with
    | handle mk => simp [bind_eq_ok, readHandle_eq_ok, unusedA0_eq_ok, Form.Takes, and_assoc]
    | handleByte mk => simp [map_eq_ok, readHandle_eq_ok, Form.Takes, and_assoc]
    | select mk => simp [bind_eq_ok, readSelect_eq_ok, unusedA0_eq_ok, Form.Takes]
    | selectByte mk => simp [map_eq_ok, readSelect_eq_ok, Form.Takes]
    | byte mk => exact unusedA1_eq_ok
    | plain j => simp [bind_eq_ok, unusedA1_eq_ok, unusedA0_eq_ok, Form.Takes, and_assoc]

/-- The map gives the opcode of an operation the form that takes the operation's own operands. -/
theorem exists_formOf_opcodeOf (wf : i.WellFormed c) :
    ∃ f, formOf (opcodeOf i) = some f ∧ f.Takes c (a1Of i) (a0Of i) i := by
  cases i with
  | bufWrite h b => exact ⟨.handleByte .bufWrite, rfl, wf, rfl⟩
  | bufPeek h | bufRead h | bufClose h | bufOpen h | bufReset h | bufIsclosed h | bufIsempty h | poolFree h
  | frmPost h =>
    exact ⟨.handle _, rfl, wf, rfl, rfl⟩
  | dbPut d b => exact ⟨.selectByte .dbPut, rfl, d, rfl, rfl⟩
  | dbWhandle d | dbRhandle d | dbPeek d | dbTake d | dbSwappable d | dbSwap d =>
    exact ⟨.select _, rfl, d, rfl, rfl, rfl⟩
  | trPutb b | trRxbyte b => exact ⟨.byte _, rfl, rfl, rfl⟩
  | poolAlloc | trNext | trFlush | trRxtmo | trTxbyte | parFetch | parExec | frmStep | outPop | errPop | sysReset =>
    exact ⟨.plain _, rfl, rfl, rfl, rfl⟩

end Decode

/-- Settles O1: the word's fields are the operation's opcode and operands, which the opcode's form takes. -/
theorem decodeInvertsEncode : Obligations.DecodeInvertsEncode := by
  intro c i wf
  refine decode_eq_ok.mpr ?_
  simpa [encode] using exists_formOf_opcodeOf wf

/-! ### Encoding what was decoded (R106) -/

section Encode

variable {c : Config} {op a1 a0 : Byte} {f : Form} {i : Instr}

/-- The operations of a form have the opcode, and the form's operands in their places. -/
def Form.Fits (c : Config) (op : Byte) : Form → Prop
  | .handle mk => ∀ h, encode (mk h) = wordOf op h 0 ∧ ((mk h).WellFormed c ↔ isLegalHandle c h)
  | .handleByte mk => ∀ h b, encode (mk h b) = wordOf op h b ∧ ((mk h b).WellFormed c ↔ isLegalHandle c h)
  | .select mk => ∀ d, encode (mk d) = wordOf op (selByte d) 0 ∧ (mk d).WellFormed c
  | .selectByte mk => ∀ d b, encode (mk d b) = wordOf op (selByte d) b ∧ (mk d b).WellFormed c
  | .byte mk => ∀ b, encode (mk b) = wordOf op 0 b ∧ (mk b).WellFormed c
  | .plain i => encode i = wordOf op 0 0 ∧ i.WellFormed c

/-- Each row of the map agrees with `opcodeOf`, `a1Of` and `a0Of`; the last case is an opcode outside the map. -/
theorem formOf_fits (map : formOf op = some f) : f.Fits c op := by
  unfold formOf at map
  split at map
  case h_31 => cases map
  all_goals
    rename_i opcode
    obtain rfl := Option.some.inj map
    obtain ⟨-, rfl⟩ := BitVec.toNat_eq_nat.mp opcode
    simp [Form.Fits, encode, opcodeOf, a1Of, a0Of, Instr.WellFormed]

/-- The word of an operation that a form takes is the one it was taken from. -/
theorem Form.Takes.encode_eq (takes : f.Takes c a1 a0 i) (fits : f.Fits c op) :
    encode i = wordOf op a1 a0 ∧ i.WellFormed c := by
  cases f with
  | handle mk =>
    obtain ⟨legal, rfl, rfl⟩ := takes
    exact (fits a1).imp_right fun wf => wf.mpr legal
  | handleByte mk =>
    obtain ⟨legal, rfl⟩ := takes
    exact (fits a1 a0).imp_right fun wf => wf.mpr legal
  | select mk =>
    obtain ⟨d, rfl, rfl, rfl⟩ := takes
    exact fits d
  | selectByte mk =>
    obtain ⟨d, rfl, rfl⟩ := takes
    exact fits d a0
  | byte mk =>
    obtain ⟨rfl, rfl⟩ := takes
    exact fits a0
  | plain j =>
    obtain ⟨rfl, rfl, rfl⟩ := takes
    exact fits

end Encode

/-- Settles O2: the word is made of its fields, and so is the word of the operation they decode to. -/
theorem encodeInvertsDecode : Obligations.EncodeInvertsDecode := by
  intro c w i decoded
  obtain ⟨f, map, takes⟩ := decode_eq_ok.mp decoded
  simpa only [wordOf_fields] using takes.encode_eq (formOf_fits map)

/-- Settles O4: the decoder evaluated on the nine words. -/
theorem sampleWordsDecode : Obligations.SampleWordsDecode := ⟨rfl, rfl, rfl, rfl, rfl, rfl, rfl, rfl, rfl⟩

/-! ### The reserved words (R108) -/

section Reserved

variable {c : Config} {w : CmdWord} {op a1 a0 : Byte} {f : Form}

/-- How a form uses `a1`, and whether its `a0` is a data byte (R106). -/
def Form.use : Form → A1Use × Bool
  | .handle _ => (.handle, false)
  | .handleByte _ => (.handle, true)
  | .select _ => (.select, false)
  | .selectByte _ => (.select, true)
  | .byte _ => (.zero, true)
  | .plain _ => (.zero, false)

theorem Form.exists_takes :
    (∃ i, f.Takes c a1 a0 i) ↔ f.use.1.Allows c a1 ∧ (f.use.2 = false → a0 = 0) := by
  cases f with
  | handle mk | handleByte mk | byte mk | plain j => simp [Form.Takes, Form.use, A1Use.Allows]
  | select mk | selectByte mk => simp [Form.Takes, Form.use, A1Use.Allows, exists_eq_selByte]

/-- The decoder's map of the opcodes and the rows of R106 say the same. -/
theorem exists_formOf_use {u : A1Use × Bool} :
    (∃ f, formOf op = some f ∧ f.use = u) ↔ (op, u) ∈ opcodeRows := by
  have rows : ∀ row ∈ opcodeRows, (formOf row.1).map Form.use = some row.2 := by decide
  have opcodes : ∀ op : Byte, ∀ u ∈ (formOf op).map Form.use, (op, u) ∈ opcodeRows := by decide
  rw [← Option.map_eq_some_iff]
  exact ⟨opcodes op u, rows (op, u)⟩

/-- A word decodes exactly where it is not reserved. -/
theorem exists_decode_iff : (∃ i, decode c w = .ok i) ↔ IsCommand c w := by
  constructor
  · rintro ⟨i, decoded⟩
    obtain ⟨f, map, takes⟩ := decode_eq_ok.mp decoded
    obtain ⟨a1, a0⟩ := Form.exists_takes.mp ⟨i, takes⟩
    exact ⟨(opField w, f.use), exists_formOf_use.mp ⟨f, map, rfl⟩, rfl, a1, a0⟩
  · rintro ⟨⟨_, _⟩, row, rfl, a1, a0⟩
    obtain ⟨f, map, rfl⟩ := exists_formOf_use.mpr row
    obtain ⟨i, takes⟩ := Form.exists_takes.mpr ⟨a1, a0⟩
    exact ⟨i, decode_eq_ok.mpr ⟨f, map, takes⟩⟩

/-- A word that does not decode is served and turned away (R9, R108). -/
theorem step_of_reserved {s : State} {a : Agent} {n : Nat} {rest : List Event} (valid : s.cfg.Valid)
    (waits : s.pending = .command a w n :: rest) (reserved : ¬ ∃ i, decode s.cfg w = .ok i) :
    step s = .next (rejectWord (s.serve a n rest)) := by
  cases decoded : decode s.cfg w with
  | ok i => exact absurd ⟨i, decoded⟩ reserved
  | error e => simp only [step, if_pos valid, waits, decoded]

end Reserved

/-- Settles O3: the words that decode are those of the map, and any other word is turned away with `F_RESERVED`. -/
theorem reservedWordOnlyRaisesReserved : Obligations.ReservedWordOnlyRaisesReserved := by
  refine ⟨fun c w => exists_decode_iff, fun s a w n rest valid waits reserved => ?_⟩
  rw [step_of_reserved valid waits (exists_decode_iff.not.mpr reserved), rejectWord, takeFault_eq]
  rfl

end Sys2Proof

/-! PROOFS of the Buffer operations' statements (40_buffer.md): what each leaves, answers and turns away (O9 to O13,
R120 to R127). -/

namespace Sys2Proof.Machine

section BufferOperations

variable {s : State} {h : Handle}

/-! ### The frame of one Buffer (R20, R52) -/

/-- Writing the registers of one Buffer stays within its frame, and stores no byte. -/
theorem BufferFrame.setBuf (b : Buf) (w : RspWord) (l : isLegalHandle s.cfg h) :
    BufferFrame h [] s ((s.setBuf h b).answer w) where
  rest := rfl
  buffers _ l' other := State.buf_setBuf_other b l l' (by simpa using other)
  storage _ _ := rfl

/-- Storing a byte in one Buffer stays within its frame, and writes the byte at `put` only. -/
theorem BufferFrame.stored (b : Byte) (w : RspWord) (l : isLegalHandle s.cfg h) :
    BufferFrame h [addr h (s.buf h).put] s ((s.stored h b).answer w) where
  rest := rfl
  buffers _ l' other :=
    State.buf_setBuf_other (s := { s with mem := s.mem.write (addr h (s.buf h).put) b }) _ l l' (by simpa using other)
  storage _ other := Memory.read_write_other _ _ (by simpa using other)

/-! ### The registers after a byte is stored or read (R120, R122) -/

theorem Buf.pushed_of_open {b : Buf} (cap : Nat) (opened : b.closed = false) :
    b.pushed cap = ⟨b.put + 1, b.get, decide (b.put + 1 = cap)⟩ := by
  simp [Buf.pushed, opened]

theorem Buf.popped_eq (b : Buf) :
    b.popped = ⟨b.put, b.get + 1, if b.put ≤ b.get + 1 then false else b.closed⟩ := by
  by_cases drained : b.put ≤ b.get + 1
  · simp [Buf.popped, drained]
  · simp [Buf.popped, drained]

/-! ### Answers (R11, R256) -/

/-- An agent that does not own the Buffer is turned away with `F_OWNERSHIP`, whatever the operation (R256). -/
theorem respond_owning_of_notOwner {k : Res Reply} (l : isLegalHandle s.cfg h)
    (notOwner : s.agentOwning h ≠ some s.port) :
    respond s (owning s.port h s k) = .next (takeFault s .ownership) := by
  rw [owning, legalHandle, faultUnless, if_pos l, faultUnless, if_neg notOwner]
  rfl

/-- The answer to an operation that was performed. -/
theorem respond_of_done {x : Res Reply} {r : Reply} {t : State} (done : x = .done r t) :
    respond s x = .next (t.answer r.word) :=
  respond_eq_next.mpr (.inl ⟨r, t, done, rfl⟩)

/-- A query of any agent is answered for a handle that names a Buffer (R104, R256). -/
theorem respond_legalHandle {r : Reply} (l : isLegalHandle s.cfg h) :
    respond s (legalHandle h s (.done r s)) = .next (s.answer r.word) :=
  respond_of_done (legalHandle_eq_done.mpr ⟨l, rfl⟩)

/-- The response word of a truth value (R102). -/
theorem Reply.word_truthByte (p : Bool) : (Reply.ok (truthByte p)).word = if p = true then 0x0001 else 0x0000 := by
  cases p
  · rfl
  · rfl

/-- Where all that an operation performs is to write the registers of one Buffer: they are as written, the rest of the
state is as before, and the value is the answer. -/
theorem exists_next_of_setBuf {x : Res Reply} {v : Byte} {b : Buf} (len : s.bufs.length = 4 + s.cfg.poolSize)
    (l : isLegalHandle s.cfg h) (done : x = .done (.ok v) (s.setBuf h b)) :
    ∃ t, respond s x = .next t ∧ t.buf h = b ∧ BufferFrame h [] s t ∧ t.rsp = s.rsp.set s.port (rspWord 0x00 v) :=
  ⟨_, respond_of_done done, State.buf_setBuf_same b len l, .setBuf b _ l, rfl⟩

end BufferOperations

/-! ### The statements -/

/-- Settles O9: a foreign agent is turned away; the owner's byte is refused where the Buffer is not writable, and
stored where it is. -/
theorem bufWriteAppendsOrReportsFull : Obligations.BufWriteAppendsOrReportsFull := by
  intro h b s sized l
  refine ⟨rfl, fun notOwner => respond_owning_of_notOwner l notOwner,
    fun owner => ⟨fun unwritable => ?_, fun opened room => ?_⟩⟩
  · have refused : ¬ (s.buf h).Writable (s.cap h) := by
      rintro ⟨opened, room⟩
      rcases unwritable with closed | full
      · exact Bool.false_ne_true (opened.symm.trans closed)
      · exact full.not_gt room
    exact respond_of_done (opBufWrite_eq_done.mpr ⟨l, owner, .inl ⟨refused, rfl, rfl⟩⟩)
  · have performed : opBufWrite s.port h b s = .done (.ok 0) (s.stored h b) :=
      opBufWrite_eq_done.mpr ⟨l, owner, .inr ⟨⟨opened, room⟩, rfl, rfl⟩⟩
    have registers : (s.stored h b).buf h = (s.buf h).pushed (s.cap h) := by
      rw [State.buf_stored b sized.1 l l, if_pos rfl]
    exact ⟨_, respond_of_done performed, registers.trans (Buf.pushed_of_open _ opened),
      Memory.read_write_same .., .stored b _ l, rfl⟩

/-- Settles O11: a foreign agent is turned away; the owner finds the Buffer empty, or takes the byte at `get`, which
stands below the capacity as `put` does. -/
theorem bufReadTakesByteAtGet : Obligations.BufReadTakesByteAtGet := by
  intro h s sized l bounded
  refine ⟨rfl, fun notOwner => respond_owning_of_notOwner l notOwner,
    fun owner => ⟨fun empty => ?_, fun unread => ?_⟩⟩
  · exact respond_of_done (opBufRead_eq_done.mpr ⟨l, owner, .inl ⟨empty, rfl, rfl⟩⟩)
  · have performed : opBufRead s.port h s =
        .done (.ok (s.byteAt h (s.buf h).get)) (s.setBuf h (s.buf h).popped) :=
      opBufRead_eq_done.mpr ⟨l, owner, .inr ⟨unread.not_ge, unread.trans_le bounded, rfl, rfl⟩⟩
    rw [← Buf.popped_eq]
    exact exists_next_of_setBuf sized.1 l performed

/-- Settles O10: as for `BUF.READ`, with no register written. -/
theorem bufPeekShowsByteAtGet : Obligations.BufPeekShowsByteAtGet := by
  intro h s l bounded
  refine ⟨rfl, fun notOwner => respond_owning_of_notOwner l notOwner,
    fun owner => ⟨fun empty => ?_, fun unread => ?_⟩⟩
  · exact respond_of_done (opBufPeek_eq_done.mpr ⟨l, owner, rfl, .inl ⟨empty, rfl⟩⟩)
  · exact respond_of_done
      (opBufPeek_eq_done.mpr ⟨l, owner, rfl, .inr ⟨unread.not_ge, unread.trans_le bounded, rfl⟩⟩)

/-- Settles O12: each of the three is a write of the Buffer's registers by its owner. -/
theorem bufCloseOpenResetSetTheRegisters : Obligations.BufCloseOpenResetSetTheRegisters := by
  intro h s sized l
  refine ⟨rfl, rfl, rfl, fun notOwner => ?_, fun owner => ⟨?_, ?_, ?_⟩⟩
  · have turnedAway {k : Res Reply} := respond_owning_of_notOwner (k := k) l notOwner
    exact ⟨turnedAway, turnedAway, turnedAway⟩
  · exact exists_next_of_setBuf sized.1 l (opBufClose_eq_done.mpr ⟨l, owner, rfl, rfl⟩)
  · exact exists_next_of_setBuf sized.1 l (opBufOpen_eq_done.mpr ⟨l, owner, rfl, rfl⟩)
  · exact exists_next_of_setBuf sized.1 l (opBufReset_eq_done.mpr ⟨l, owner, rfl, rfl⟩)

/-- Settles O13: both queries are checked for their handle alone; the two truth values are the two answers. -/
theorem bufQueriesAnswerAnyAgent : Obligations.BufQueriesAnswerAnyAgent := by
  intro h s l
  refine ⟨rfl, rfl, ?isclosed, ?isempty⟩
  case isclosed =>
    rw [← Reply.word_truthByte]
    exact respond_legalHandle l
  case isempty =>
    have word := Reply.word_truthByte (decide (s.buf h).Empty)
    simp only [decide_eq_true_eq] at word
    rw [← word]
    exact respond_legalHandle l

end Sys2Proof.Machine

/-! PROOFS of the DoubleBuffer operations' statements (41_doublebuffer.md): which agents they answer, what they leave
and what a swap exchanges (O14 to O17, R141 to R147). -/

namespace Sys2Proof.Machine

section DoubleBufferOperations

variable {s : State} {d : DbSel}

/-! ### Who is answered (R108, R256) -/

/-- An agent the operation is not listed for is turned away with `F_OWNERSHIP`, whatever the operation (R256). -/
theorem respond_issuedBy_of_notListed {allowed : List Agent} {k : Res Reply} (notListed : s.port ∉ allowed) :
    respond s (issuedBy s.port allowed k) = .next (takeFault s .ownership) := by
  rw [issuedBy, faultUnless, if_neg notListed]
  rfl

/-- A check for one agent turns every other agent away (R256). -/
theorem respond_issuedBy_of_ne {a : Agent} {k : Res Reply} (ne : s.port ≠ a) :
    respond s (issuedBy s.port [a] k) = .next (takeFault s .ownership) :=
  respond_issuedBy_of_notListed (by simpa using ne)

/-- A check for one agent lets that agent through. -/
theorem issuedBy_self {α : Type} {a b : Agent} {k : Res α} (e : a = b) : issuedBy a [b] k = k :=
  if_pos (List.mem_singleton.mpr e)

/-- `DB.PUT` of the producer is its `BUF.WRITE` on the write buffer (R143). -/
theorem exec_dbPut_of_producer (b : Byte) (e : s.port = producer d) :
    exec (.dbPut d b) s = exec (.bufWrite (s.wh d) b) s :=
  congrArg (respond s) (issuedBy_self e)

/-- `DB.PEEK` of the consumer is its `BUF.PEEK` on the read buffer (R144). -/
theorem exec_dbPeek_of_consumer (e : s.port = consumer d) : exec (.dbPeek d) s = exec (.bufPeek (s.rh d)) s :=
  congrArg (respond s) (issuedBy_self e)

/-- `DB.TAKE` of the consumer is its `BUF.READ` on the read buffer (R145). -/
theorem exec_dbTake_of_consumer (e : s.port = consumer d) : exec (.dbTake d) s = exec (.bufRead (s.rh d)) s :=
  congrArg (respond s) (issuedBy_self e)

/-- The swap owner's `DB.SWAP` of a pair that is not swappable is `F_SWAP` (R147). -/
theorem exec_dbSwap_of_notSwappable (owner : s.port = swapOwner d) (notReady : ¬ s.Swappable d) :
    exec (.dbSwap d) s = .next (takeFault s .swap) := by
  show respond s (issuedBy _ _ (faultUnless _ _ _)) = _
  rw [issuedBy_self owner, faultUnless, if_neg notReady]
  rfl

/-! ### The answers to queries (R102, R104) -/

/-- The slot a selector does not name is the other one. -/
theorem slotHandle_not (d : DbSel) (a : Bool) : slotHandle d (!a) = if a then slotBase d else slotBase d + 1 := by
  cases a
  · rfl
  · rfl

/-- The response word of a predicate's truth value (R102). -/
theorem Reply.word_truthByte_decide (p : Prop) [Decidable p] :
    (Reply.ok (truthByte (decide p))).word = if p then 0x0001 else 0x0000 := by
  simpa only [decide_eq_true_eq] using Reply.word_truthByte (decide p)

/-! ### What a swap exchanges (R147) -/

/-- After a swap the new write buffer is reset. -/
theorem State.buf_swapped_rh (len : s.bufs.length = 4 + s.cfg.poolSize) : (s.swapped d).buf (s.rh d) = Buf.empty := by
  rw [State.buf_swapped len (s.rh_legal d), if_pos rfl]

/-- A swap leaves every Buffer but the old read buffer as it was. -/
theorem State.buf_swapped_other {h : Handle} (len : s.bufs.length = 4 + s.cfg.poolSize) (l : isLegalHandle s.cfg h)
    (ne : h ≠ s.rh d) : (s.swapped d).buf h = s.buf h := by
  rw [State.buf_swapped len l, if_neg ne]

/-- A pair that was just swapped is not swappable: its read buffer is the closed write buffer of before. -/
theorem State.swapped_notSwappable (len : s.bufs.length = 4 + s.cfg.poolSize) (ready : s.Swappable d) :
    ¬ (s.swapped d).Swappable d := by
  rintro ⟨opened, -⟩
  have kept := State.buf_swapped_other len (s.wh_legal d) (s.wh_ne_rh d)
  rw [State.swapped_rh, kept, ready.2] at opened
  exact Bool.false_ne_true opened.symm

/-- A swap and its answer write the registers of Buffers, the selectors and the response only. -/
theorem State.swapped_answer_eq (s : State) (d : DbSel) (w : RspWord) :
    (s.swapped d).answer w =
      { s with
        bufs := (s.swapped d).bufs, awIng := (s.swapped d).awIng, awEgr := (s.swapped d).awEgr,
        rsp := s.rsp.set s.port w } := by
  cases d
  · rfl
  · rfl

end DoubleBufferOperations

/-! ### The statements -/

/-- Settles O17: a foreign agent is turned away, a pair that is not swappable is `F_SWAP`; else the state after is
`State.swapped`, whose read buffer is the closed one of before. -/
theorem dbSwapExchangesTheBuffers : Obligations.DbSwapExchangesTheBuffers := by
  intro d s sized
  obtain ⟨len, -⟩ := sized
  refine ⟨rfl, respond_issuedBy_of_ne, fun owner => ⟨exec_dbSwap_of_notSwappable owner, fun ready => ?_⟩⟩
  have performed : opDbSwap s.port d s = .done (.ok 0) (s.swapped d) :=
    opDbSwap_eq_done.mpr ⟨owner, ready, rfl, rfl⟩
  refine ⟨_, respond_of_done performed, s.swapped_aw d, s.swapped_wh d, s.swapped_rh d, State.buf_swapped_rh len,
    fun h l other => ?buffers, fun k _ => ?storage, State.swapped_notSwappable len ready,
    fun d' ne => s.swapped_aw_other ne, s.swapped_answer_eq d _⟩
  case buffers => exact State.buf_swapped_other len l (by simpa using other)
  case storage => exact congrArg (fun m => m.read k) (s.swapped_mem d)

/-- Settles O14: each query is performed for any agent; the handles are the slots the selector names and does not
name, and the two truth values are the two answers. -/
theorem dbQueriesAnswerAnyAgent : Obligations.DbQueriesAnswerAnyAgent := by
  intro d s
  refine ⟨rfl, rfl, rfl, rfl, slotHandle_not .ing _, rfl, slotHandle_not .egr _, rfl, rfl, ?_⟩
  rw [← Reply.word_truthByte_decide (s.Swappable d)]
  exact respond_of_done (s := s) rfl

/-- Settles O15: the write buffer is the producer's, so what its `BUF.WRITE` does (O9) is what `DB.PUT` does. -/
theorem dbPutWritesTheWriteBuffer : Obligations.DbPutWritesTheWriteBuffer := by
  intro d b s sized
  refine ⟨rfl, respond_issuedBy_of_ne, fun e => ?_⟩
  obtain ⟨-, -, ofOwner⟩ := bufWriteAppendsOrReportsFull (s.wh d) b s sized (s.wh_legal d)
  rw [exec_dbPut_of_producer b e]
  exact ⟨rfl, ofOwner (e ▸ s.agentOwning_wh d)⟩

/-- Settles O16: the read buffer is the consumer's, so what its `BUF.PEEK` (O10) and `BUF.READ` (O11) do is what
`DB.PEEK` and `DB.TAKE` do. -/
theorem dbPeekAndTakeReadTheReadBuffer : Obligations.DbPeekAndTakeReadTheReadBuffer := by
  intro d s sized bounded
  refine ⟨rfl, rfl, fun ne => ⟨respond_issuedBy_of_ne ne, respond_issuedBy_of_ne ne⟩, fun e => ?_⟩
  have owner : s.agentOwning (s.rh d) = some s.port := e ▸ s.agentOwning_rh d
  obtain ⟨-, -, peeked⟩ := bufPeekShowsByteAtGet (s.rh d) s (s.rh_legal d) bounded
  obtain ⟨-, -, taken⟩ := bufReadTakesByteAtGet (s.rh d) s sized (s.rh_legal d) bounded
  obtain ⟨peekEmpty, peekUnread⟩ := peeked owner
  obtain ⟨takeEmpty, takeUnread⟩ := taken owner
  rw [exec_dbPeek_of_consumer e, exec_dbTake_of_consumer e]
  exact ⟨rfl, rfl, fun empty => ⟨peekEmpty empty, takeEmpty empty⟩, fun unread => ⟨peekUnread unread, takeUnread unread⟩⟩

end Sys2Proof.Machine

/-! PROOFS of the BufferPool operations' statements (42_bufferpool.md): when an allocation holds, which Buffer it can
hand out and how it leaves it, and who can give a Buffer back (O18, O19, R161, R162). -/

namespace Sys2Proof.Machine

section PoolOperations

variable {s : State} {h : Handle} {p : Nat}

/-! ### Answers to an operation that was not performed (R11) -/

/-- An operation that holds changes nothing but its answer. -/
theorem respond_of_hold {x : Res Reply} (holds : x = .abort .hold) : respond s x = .next (s.answer 0x0300) :=
  respond_eq_next.mpr (.inr (.inl ⟨holds, rfl⟩))

/-- An operation that faults is turned away with its fault. -/
theorem respond_of_fault {x : Res Reply} {f : FaultName} (faults : x = .abort (.fault f)) :
    respond s x = .next (takeFault s f) :=
  respond_eq_next.mpr (.inr (.inr ⟨f, faults, rfl⟩))

/-! ### `POOL.ALLOC` (R161) -/

theorem mem_allocators {a : Agent} : a ∈ [Agent.parser, .host] ↔ a = .parser ∨ a = .host := by simp

/-- Only the Parser and the host allocate (R256). -/
theorem allocate_of_notAllocator {a : Agent} (notParser : a ≠ .parser) (notHost : a ≠ .host) :
    allocate a s = .abort (.fault .ownership) :=
  if_neg fun listed => (mem_allocators.mp listed).elim notParser notHost

/-- An allocation holds while the pool is empty (R161 (a)). -/
theorem allocate_of_noneAvailable {a : Agent} (issuer : a = .parser ∨ a = .host) (empty : s.avail = 0) :
    allocate a s = .abort .hold :=
  (if_pos (mem_allocators.mpr issuer)).trans (if_neg (by omega))

/-- An allocation hands out the Buffer that the step's free input picks (R161 (b)). -/
theorem exec_poolAlloc_of_pick (issuer : s.port = .parser ∨ s.port = .host) (avail : 0 < s.avail)
    (pick : pickFree s.owner s.pick = some p) :
    exec .poolAlloc s = .next ((s.allocated s.port p).answer (rspWord 0x00 (poolHandle p))) := by
  have taken : allocate s.port s = .done (poolHandle p) (s.allocated s.port p) :=
    allocate_eq_done.mpr ⟨issuer, avail, p, pick, rfl, rfl⟩
  have performed : opPoolAlloc s.port s = .done (.ok (poolHandle p)) (s.allocated s.port p) :=
    Res.bind_eq_done.mpr ⟨_, _, taken, rfl⟩
  exact respond_of_done performed

/-- A Buffer just handed out is open and empty. -/
theorem State.buf_allocated_same (a : Agent) (len : s.bufs.length = 4 + s.cfg.poolSize)
    (l : isPoolHandle s.cfg (poolHandle p)) : (s.allocated a p).buf (poolHandle p) = Buf.empty :=
  State.buf_setBuf_same
    (s := ({ s with avail := s.avail - 1 } : State).setOwner (poolHandle p) (allocOwner a)) _ len (.inr l)

/-- An allocation leaves the registers of every other Buffer. -/
theorem State.allocated_buffersKept (a : Agent) (w : RspWord) (l : isPoolHandle s.cfg (poolHandle p)) :
    BuffersKept [poolHandle p] s ((s.allocated a p).answer w) := fun _ l' other =>
  State.buf_setBuf_other
    (s := ({ s with avail := s.avail - 1 } : State).setOwner (poolHandle p) (allocOwner a)) _ (.inr l) l'
    (by simpa using other)

/-! ### `POOL.FREE` (R162) -/

/-- The handle is checked before the holder (R162). -/
theorem opPoolFree_of_notPool {a : Agent} (notPool : ¬ isPoolHandle s.cfg h) :
    opPoolFree a h s = .abort (.fault .reserved) := if_neg notPool

/-- Only the holder gives a Buffer back (R162). -/
theorem opPoolFree_of_notHolder {a : Agent} (l : isPoolHandle s.cfg h) (notHolder : s.ownerOf h ≠ heldBy a) :
    opPoolFree a h s = .abort (.fault .ownership) :=
  (if_pos l).trans (if_neg fun ⟨_, holder⟩ => notHolder holder)

/-- Every pool Buffer has an owner value (R28). -/
theorem State.ownerOf_isSome (len : s.owner.length = s.cfg.poolSize) (l : isPoolHandle s.cfg h) :
    (s.ownerOf h).isSome = true := by
  rw [State.ownerOf, List.getElem?_eq_getElem (len ▸ poolIndex_lt l)]
  rfl

end PoolOperations

/-! ### The statements -/

/-- Settles O18: a foreign agent is turned away and an empty pool holds; else a Buffer is free, as `avail` counts the
free ones, and the state after is `State.allocated` for the one picked. -/
theorem poolAllocHandsOutAFreeBuffer : Obligations.PoolAllocHandsOutAFreeBuffer := by
  intro s valid ⟨bufCount, ownerCount⟩ counts
  refine ⟨rfl, fun notParser notHost => ?foreign, fun issuer => ⟨fun empty => ?holds, fun avail => ⟨?handsOut, ?anyFree⟩⟩⟩
  case foreign =>
    exact respond_of_fault (Res.bind_eq_abort.mpr (.inl (allocate_of_notAllocator notParser notHost)))
  case holds => exact respond_of_hold (Res.bind_eq_abort.mpr (.inl (allocate_of_noneAvailable issuer empty)))
  case handsOut =>
    obtain ⟨p, pick⟩ := pickFree_isSome s.pick (List.count_pos_iff.mp (counts ▸ avail))
    have free := pickFree_some pick
    have lt : p < s.cfg.poolSize := ownerCount ▸ (List.getElem?_eq_some_iff.mp free).1
    have l := isPoolHandle_poolHandle valid lt
    have owners : (s.allocated s.port p).owner = s.owner.set p (allocOwner s.port) := by
      rw [State.allocated_owner, poolIndex_poolHandle valid lt]
    exact ⟨p, _, free, exec_poolAlloc_of_pick issuer avail pick, rfl, owners,
      State.buf_allocated_same _ bufCount l, State.allocated_buffersKept _ _ l, fun _ _ => rfl, rfl⟩
  case anyFree =>
    intro p free
    obtain ⟨n, pick⟩ := pickFree_all free
    exact ⟨n, _, exec_poolAlloc_of_pick (s := { s with pick := n }) issuer avail pick, rfl⟩

/-- Settles O19: the two checks in their order; a holder's Buffer has an owner value, so the last case is performed. -/
theorem poolFreeReturnsAHeldBuffer : Obligations.PoolFreeReturnsAHeldBuffer := by
  intro h s ⟨_, ownerCount⟩
  refine ⟨rfl, fun notPool => respond_of_fault (opPoolFree_of_notPool notPool), fun l =>
    ⟨fun notHolder => respond_of_fault (opPoolFree_of_notHolder l notHolder), fun holder => ?_⟩⟩
  exact respond_of_done (opPoolFree_eq_done.mpr ⟨l, ⟨State.ownerOf_isSome ownerCount l, holder⟩, rfl, rfl⟩)

end Sys2Proof.Machine

/-! PROOFS of the transport operations' statements (43_transport.md): what they leave, when they hold and when they
drop a byte (O20 to O24, R172 to R177). -/

namespace Sys2Proof.Machine

section TransportOperations

variable {s : State} {d : DbSel} {b : Byte}

/-! ### The guards of the transport operations (R15) -/

/-- A guard that fails ends the operation with `HOLD`. -/
theorem holdUnless_of_not {α : Type} {c : Prop} [Decidable c] {x : Res α} (fails : ¬ c) :
    holdUnless c x = .abort .hold := if_neg fails

/-- A guard that is met lets the operation go on. -/
theorem holdUnless_of {α : Type} {c : Prop} [Decidable c] {x : Res α} (met : c) : holdUnless c x = x := if_pos met

/-! ### A take (R172, R177) -/

/-- `TR.NEXT` of the Parser is its `BUF.READ` on a read buffer that is not empty (R172). -/
theorem exec_trNext_of_unread (port : s.port = .parser) (unread : ¬ (s.buf (s.rh .ing)).Empty) :
    exec .trNext s = exec (.bufRead (s.rh .ing)) s := by
  have next : opTrNext s.port s = opDbTake s.port .ing s :=
    (issuedBy_self port).trans (holdUnless_of unread)
  exact congrArg (respond s) (next.trans (issuedBy_self port))

/-- The sender takes the next byte of a read buffer that is not empty, and the byte goes to the trace (R177). -/
theorem opTrTxbyte_of_unread (unread : ¬ (s.buf (s.rh .egr)).Empty)
    (bounded : (s.buf (s.rh .egr)).put ≤ s.cap (s.rh .egr)) :
    opTrTxbyte .tx s =
      .done (.ok (s.firstByte .egr)) { s.taken .egr with tx := s.tx ++ [s.firstByte .egr] } := by
  have inside : (s.buf (s.rh .egr)).get < s.cap (s.rh .egr) := (Nat.lt_of_not_le unread).trans_le bounded
  have take : opDbTake .tx .egr s = .done (.ok (s.firstByte .egr)) (s.taken .egr) :=
    opDbTake_eq_done.mpr
      ⟨rfl, opBufRead_eq_done.mpr ⟨s.rh_legal .egr, s.agentOwning_rh .egr, .inr ⟨unread, inside, rfl, rfl⟩⟩⟩
  exact issuedBy_eq_done.mpr ⟨List.mem_singleton_self _,
    holdUnless_eq_done.mpr ⟨unread, Res.bind_eq_done.mpr ⟨_, _, take, rfl⟩⟩⟩

/-! ### A byte passed into a pair (R173, R174) -/

/-- A pair with room is ready for a byte after the swap that was waiting: the write buffer is open and not full. -/
theorem State.readyToPut_writable (len : s.bufs.length = 4 + s.cfg.poolSize) (room : s.HasRoom d) :
    ((s.readyToPut d).buf ((s.readyToPut d).wh d)).Writable ((s.readyToPut d).cap ((s.readyToPut d).wh d)) := by
  obtain ⟨-, readCap, openRoom⟩ := room
  unfold State.readyToPut
  split
  case isTrue =>
    rw [State.swapped_wh, State.buf_swapped_rh len, State.cap, State.swapped_cfg]
    exact ⟨rfl, readCap⟩
  case isFalse opened =>
    have opened := Bool.eq_false_of_not_eq_true opened
    exact ⟨opened, openRoom opened⟩

/-- The put inside `TR.PUTB` and `TR.RXBYTE` (R173 (c)). -/
theorem opDbPut_readyToPut (len : s.bufs.length = 4 + s.cfg.poolSize) (room : s.HasRoom d) (b : Byte) :
    opDbPut (producer d) d b (s.readyToPut d) =
      .done (.ok 0) ((s.readyToPut d).stored ((s.readyToPut d).wh d) b) :=
  opDbPut_eq_done.mpr ⟨rfl, opBufWrite_eq_done.mpr
    ⟨State.wh_legal _ d, State.agentOwning_wh _ d, .inr ⟨State.readyToPut_writable len room, rfl, rfl⟩⟩⟩

/-- A byte passed into a pair is an operation on that pair. -/
theorem PairStep.passed (len : s.bufs.length = 4 + s.cfg.poolSize) (room : s.HasRoom d)
    (ready : (s.buf (s.wh d)).closed = true → s.Swappable d) (b : Byte) : PairStep d s (s.passed d b) :=
  ((PairStep.readyToPut ready).trans (opDbPut_pairStep _ _ _ _ _ _ (opDbPut_readyToPut len room b))).trans
    (.swappedIf d _)

@[simp] theorem State.swappedIf_mem (s : State) (d : DbSel) : (s.swappedIf d).mem = s.mem := by
  unfold State.swappedIf
  split
  · exact s.swapped_mem d
  · rfl

@[simp] theorem State.readyToPut_mem (s : State) (d : DbSel) : (s.readyToPut d).mem = s.mem := by
  unfold State.readyToPut
  split
  · exact s.swapped_mem d
  · rfl

/-- The one byte that a pass stores. -/
theorem State.passed_mem (s : State) (d : DbSel) (b : Byte) :
    (s.passed d b).mem = s.mem.write (s.passKey d) b := by
  show (((s.readyToPut d).stored ((s.readyToPut d).wh d) b).swappedIf d).mem = _
  rw [State.swappedIf_mem]
  show (s.readyToPut d).mem.write (s.passKey d) b = _
  rw [State.readyToPut_mem]

/-- The two Buffers of a pair are its two slots. -/
theorem State.mem_pair_of_slot (s : State) (d : DbSel) (a : Bool) : slotHandle d a ∈ [s.wh d, s.rh d] := by
  unfold State.wh State.rh
  cases a <;> cases s.aw d <;> simp

/-- An operation on a pair leaves the registers of every Buffer outside it. -/
theorem PairStep.buffersKept {t : State} (x : PairStep d s t) : BuffersKept [s.wh d, s.rh d] s t := by
  intro h l outside
  refine x.buffers h l fun a slot => outside ?_
  rw [slot]
  exact s.mem_pair_of_slot d a

theorem PassFrame.of_ready (len : s.bufs.length = 4 + s.cfg.poolSize) (room : s.HasRoom d)
    (ready : (s.buf (s.wh d)).closed = true → s.Swappable d) (b : Byte) : PassFrame d b s := by
  have step := PairStep.passed len room ready b
  exact
    { stored := by rw [State.passed_mem, Memory.read_write_same]
      storage := fun k other => by
        rw [State.passed_mem, Memory.read_write_other _ _ (by simpa using other)]
      buffers := step.buffersKept
      selector := step.selector
      rest := step.frame }

/-- A write buffer that is open, or a pair that is swappable: where the first fails, the second holds. -/
theorem State.ready_of_canPut (can : (s.buf (s.wh d)).closed = false ∨ s.Swappable d)
    (closed : (s.buf (s.wh d)).closed = true) : s.Swappable d :=
  can.resolve_left (by simp [closed])

theorem opTrPutb_of_canSend (len : s.bufs.length = 4 + s.cfg.poolSize) (room : s.HasRoom .egr) (can : s.CanSend) :
    opTrPutb .framer b s = .done (.ok 0) (s.passed .egr b) :=
  opTrPutb_eq_done.mpr ⟨rfl, can, rfl, _, _, opDbPut_readyToPut len room b, rfl⟩

theorem opTrRxbyte_of_ready (len : s.bufs.length = 4 + s.cfg.poolSize) (room : s.HasRoom .ing)
    (ready : (s.buf (s.wh .ing)).closed = true → s.Swappable .ing) :
    opTrRxbyte .rx b s = .done (.ok 0) (s.passed .ing b) :=
  opTrRxbyte_eq_done.mpr ⟨rfl, ready, rfl, _, _, opDbPut_readyToPut len room b, rfl⟩

/-- A link byte that finds the write buffer closed and no swap possible is dropped (R174). -/
theorem opTrRxbyte_of_jammed (closed : (s.buf (s.wh .ing)).closed = true) (notReady : ¬ s.Swappable .ing) :
    opTrRxbyte .rx b s = .abort (.fault .rxOverrun) := by
  unfold opTrRxbyte faultUnless
  rw [if_pos closed, if_neg notReady, issuedBy_self rfl]
  rfl

/-! ### The `RX` trace (R43) -/

/-- The state with another `RX` trace. -/
def State.withRx (s : State) (l : List Byte) : State := { s with rx := l }

theorem State.received_of_receiver (port : s.port = .rx) (b : Byte) : s.received b = s.withRx (s.rx ++ [b]) :=
  if_pos port

theorem exec_trRxbyte_of_receiver (port : s.port = .rx) :
    exec (.trRxbyte b) s = respond (s.withRx (s.rx ++ [b])) (opTrRxbyte .rx b (s.withRx (s.rx ++ [b]))) := by
  show respond (s.received b) (opTrRxbyte s.port b (s.received b)) = _
  rw [State.received_of_receiver port, port]

theorem State.withRx_swapped (l : List Byte) : (s.withRx l).swapped d = (s.swapped d).withRx l := by
  cases d
  · rfl
  · rfl

theorem State.withRx_swappedIf (l : List Byte) : (s.withRx l).swappedIf d = (s.swappedIf d).withRx l := by
  by_cases ready : s.Swappable d
  · exact (if_pos ready).trans ((State.withRx_swapped l).trans (congrArg (withRx · l) (if_pos ready).symm))
  · exact (if_neg ready).trans (congrArg (withRx · l) (if_neg ready).symm)

theorem State.withRx_readyToPut (l : List Byte) : (s.withRx l).readyToPut d = (s.readyToPut d).withRx l := by
  by_cases closed : (s.buf (s.wh d)).closed = true
  · exact (if_pos closed).trans ((State.withRx_swapped l).trans (congrArg (withRx · l) (if_pos closed).symm))
  · exact (if_neg closed).trans (congrArg (withRx · l) (if_neg closed).symm)

/-- What a pass does is the same whatever the trace holds, and it leaves the trace. -/
theorem State.withRx_passed (l : List Byte) : (s.withRx l).passed d b = (s.passed d b).withRx l := by
  unfold State.passed
  rw [State.withRx_readyToPut]
  exact State.withRx_swappedIf (s := (s.readyToPut d).stored ((s.readyToPut d).wh d) b) l

/-! ### A partial buffer pushed out (R175, R176) -/

/-- The pair with its trailing partial buffer closed. -/
def State.trailingClosed (s : State) (d : DbSel) : State :=
  if (s.buf (s.wh d)).closed = false ∧ 0 < (s.buf (s.wh d)).put then s.writeClosed d else s

theorem State.pushedOut_eq (s : State) (d : DbSel) : s.pushedOut d = (s.trailingClosed d).swappedIf d := rfl

@[simp] theorem State.trailingClosed_aw (s : State) (d : DbSel) : (s.trailingClosed d).aw d = s.aw d := by
  unfold State.trailingClosed
  split
  · exact State.setBuf_aw _ _ _ d
  · rfl

@[simp] theorem State.trailingClosed_wh (s : State) (d : DbSel) : (s.trailingClosed d).wh d = s.wh d :=
  congrArg (slotHandle d) (s.trailingClosed_aw d)

@[simp] theorem State.trailingClosed_rh (s : State) (d : DbSel) : (s.trailingClosed d).rh d = s.rh d :=
  congrArg (fun a => slotHandle d !a) (s.trailingClosed_aw d)

theorem State.trailingClosed_mem (s : State) (d : DbSel) : (s.trailingClosed d).mem = s.mem := by
  unfold State.trailingClosed
  split
  · rfl
  · rfl

theorem State.trailingClosed_len (len : s.bufs.length = 4 + s.cfg.poolSize) (d : DbSel) :
    (s.trailingClosed d).bufs.length = 4 + (s.trailingClosed d).cfg.poolSize := by
  unfold State.trailingClosed
  split
  · exact (List.length_set ..).trans len
  · exact len

theorem State.buf_trailingClosed_rh (s : State) (d : DbSel) :
    (s.trailingClosed d).buf (s.rh d) = s.buf (s.rh d) := by
  unfold State.trailingClosed
  split
  · exact State.buf_setBuf_other _ (s.wh_legal d) (s.rh_legal d) (s.wh_ne_rh d).symm
  · rfl

/-- The write buffer is closed where it is open and holds a byte, and is as it was elsewhere. -/
theorem State.buf_trailingClosed_wh (len : s.bufs.length = 4 + s.cfg.poolSize) (d : DbSel) :
    (s.trailingClosed d).buf (s.wh d) =
      if (s.buf (s.wh d)).closed = false ∧ 0 < (s.buf (s.wh d)).put then { s.buf (s.wh d) with closed := true }
      else s.buf (s.wh d) := by
  unfold State.trailingClosed
  split
  · exact State.buf_setBuf_same _ len (s.wh_legal d)
  · rfl

/-- When the pair can be swapped once its trailing buffer is closed. -/
theorem State.trailingClosed_swappable_iff (len : s.bufs.length = 4 + s.cfg.poolSize) :
    (s.trailingClosed d).Swappable d ↔
      (s.buf (s.rh d)).closed = false ∧ ((s.buf (s.wh d)).closed = true ∨ 0 < (s.buf (s.wh d)).put) := by
  unfold State.Swappable
  rw [State.trailingClosed_rh, State.trailingClosed_wh, State.buf_trailingClosed_rh, State.buf_trailingClosed_wh len]
  refine and_congr_right fun _ => ?_
  split
  case isTrue partly => exact ⟨fun _ => .inr partly.2, fun _ => rfl⟩
  case isFalse notPartly =>
    refine ⟨.inl, fun holds => ?_⟩
    by_contra opened
    exact notPartly ⟨Bool.eq_false_of_not_eq_true opened, holds.resolve_left opened⟩

/-- A swap where one is possible leaves the registers of the old write buffer. -/
theorem State.buf_swappedIf_wh (len : s.bufs.length = 4 + s.cfg.poolSize) (d : DbSel) :
    (s.swappedIf d).buf (s.wh d) = s.buf (s.wh d) := by
  unfold State.swappedIf
  split
  · exact State.buf_swapped_other len (s.wh_legal d) (s.wh_ne_rh d)
  · rfl

theorem State.buf_pushedOut_wh (len : s.bufs.length = 4 + s.cfg.poolSize) (d : DbSel) :
    (s.pushedOut d).buf (s.wh d) = (s.trailingClosed d).buf (s.wh d) := by
  have kept := State.buf_swappedIf_wh (State.trailingClosed_len len d) d
  rwa [State.trailingClosed_wh] at kept

theorem State.pushedOut_mem (s : State) (d : DbSel) : (s.pushedOut d).mem = s.mem :=
  (State.swappedIf_mem _ d).trans (s.trailingClosed_mem d)

/-- The pair is swapped: the selector flips, and the old read buffer is reset. -/
theorem State.pushedOut_of_ready (len : s.bufs.length = 4 + s.cfg.poolSize)
    (ready : (s.trailingClosed d).Swappable d) :
    (s.pushedOut d).aw d = (!s.aw d) ∧ (s.pushedOut d).buf (s.rh d) = Buf.empty := by
  have reset := State.buf_swapped_rh (d := d) (State.trailingClosed_len len d)
  rw [State.trailingClosed_rh] at reset
  rw [State.pushedOut_eq, State.swappedIf, if_pos ready]
  exact ⟨by rw [State.swapped_aw, State.trailingClosed_aw], reset⟩

/-- The pair is not swapped: the selector and the read buffer are as before. -/
theorem State.pushedOut_of_notReady (notReady : ¬ (s.trailingClosed d).Swappable d) :
    (s.pushedOut d).aw d = s.aw d ∧ (s.pushedOut d).buf (s.rh d) = s.buf (s.rh d) := by
  rw [State.pushedOut_eq, State.swappedIf, if_neg notReady]
  exact ⟨s.trailingClosed_aw d, s.buf_trailingClosed_rh d⟩

/-- A push out writes the registers of Buffers and the selectors only. -/
theorem State.pushedOut_frame (s : State) (d : DbSel) :
    s.pushedOut d =
      { s with
        bufs := (s.pushedOut d).bufs, awIng := (s.pushedOut d).awIng, awEgr := (s.pushedOut d).awEgr } := by
  have frame := (PairStep.pushedOut d s).frame
  rwa [State.pushedOut_mem] at frame

end TransportOperations

/-! ### The statements -/

/-- Settles O20: a foreign agent is turned away and an empty read buffer holds; else `TR.NEXT` is the Parser's
`BUF.READ` (O11). -/
theorem trNextTakesAnIngressByte : Obligations.TrNextTakesAnIngressByte := by
  intro s sized bounded
  refine ⟨rfl, respond_issuedBy_of_ne, fun port => ⟨fun empty => respond_of_hold ?_, fun unread => ?_⟩⟩
  · exact (issuedBy_self port).trans (holdUnless_of_not (not_not.mpr empty))
  · have owner : s.agentOwning (s.rh .ing) = some s.port := port ▸ s.agentOwning_rh .ing
    obtain ⟨-, -, taken⟩ := bufReadTakesByteAtGet (s.rh .ing) s sized (s.rh_legal .ing) bounded
    rw [exec_trNext_of_unread port unread.not_ge]
    exact (taken owner).2 unread

/-- Settles O24: a foreign agent is turned away and an empty read buffer holds; else the byte taken goes to the
trace. -/
theorem trTxbyteSendsAnEgressByte : Obligations.TrTxbyteSendsAnEgressByte := by
  intro s ⟨len, _⟩ bounded
  refine ⟨rfl, respond_issuedBy_of_ne, fun port => ⟨fun empty => respond_of_hold ?_, fun unread => ?_⟩⟩
  · exact (issuedBy_self port).trans (holdUnless_of_not (not_not.mpr empty))
  · have l := s.rh_legal .egr
    have performed := opTrTxbyte_of_unread unread.not_ge bounded
    rw [← port] at performed
    rw [← Buf.popped_eq]
    exact ⟨_, respond_of_done performed, State.buf_setBuf_same _ len l, rfl,
      fun _ l' other => State.buf_setBuf_other _ l l' (by simpa using other), fun _ _ => rfl, rfl⟩

/-- Settles O21: a foreign agent is turned away, a jammed pair holds; else the byte is passed, as there is room for
it. -/
theorem trPutbPassesAByteToEgress : Obligations.TrPutbPassesAByteToEgress := by
  intro b s ⟨len, _⟩ room
  refine ⟨rfl, respond_issuedBy_of_ne, fun port => ⟨fun closed notReady => respond_of_hold ?_, fun can => ⟨?_, ?_⟩⟩⟩
  · have cannot : ¬ s.CanSend := fun can => notReady (State.ready_of_canPut can closed)
    exact (issuedBy_self port).trans (holdUnless_of_not cannot)
  · have performed := opTrPutb_of_canSend (b := b) len room can
    rw [← port] at performed
    exact respond_of_done performed
  · exact .of_ready len room (State.ready_of_canPut can) b

/-- Settles O22: a foreign agent is turned away; the receiver's byte stands in the trace, and is then dropped or
passed, which does not depend on the trace. -/
theorem trRxbyteTakesALinkByte : Obligations.TrRxbyteTakesALinkByte := by
  intro b s ⟨len, _⟩ room
  refine ⟨rfl, fun foreign => ?foreign, fun port => ⟨fun closed notReady => ?dropped, fun can => ⟨?passed, ?frame⟩⟩⟩
  case foreign =>
    have unheard : s.received b = s := if_neg foreign
    show respond (s.received b) (opTrRxbyte s.port b (s.received b)) = _
    rw [unheard]
    exact respond_issuedBy_of_ne foreign
  case dropped =>
    rw [exec_trRxbyte_of_receiver port]
    exact respond_of_fault (opTrRxbyte_of_jammed (s := s.withRx _) closed notReady)
  case passed =>
    have performed : opTrRxbyte .rx b (s.withRx (s.rx ++ [b])) =
        .done (.ok 0) ((s.passed .ing b).withRx (s.rx ++ [b])) := by
      rw [← State.withRx_passed]
      exact opTrRxbyte_of_ready (s := s.withRx _) len room (State.ready_of_canPut can)
    rw [exec_trRxbyte_of_receiver port]
    exact respond_of_done performed
  case frame => exact .of_ready len room (State.ready_of_canPut can) b

/-- Settles O23: both operations push the pair out for the agents they are listed for; what that leaves turns on
whether the trailing buffer is closed and whether the pair can then be swapped. -/
theorem trRxtmoAndFlushCloseAPartialBuffer : Obligations.TrRxtmoAndFlushCloseAPartialBuffer := by
  rintro d s _ ⟨len, _⟩ rfl
  have write := (State.buf_pushedOut_wh len d).trans (State.buf_trailingClosed_wh len d)
  have swappable := State.trailingClosed_swappable_iff (d := d) len
  have step := PairStep.pushedOut d s
  refine ⟨rfl, rfl, respond_issuedBy_of_ne, fun notFramer notHost => ?foreignFlush, fun port ingress => ?timeout,
    fun issuer egress => ?flush, fun opened holds => ?closes, fun closedOrEmpty => ?keeps,
    fun free holds => State.pushedOut_of_ready len (swappable.mpr ⟨free, holds⟩),
    fun stuck => State.pushedOut_of_notReady fun ready => ?stuck,
    step.selector, fun k _ => congrArg (·.read k) (s.pushedOut_mem d), step.buffersKept, s.pushedOut_frame d⟩
  case foreignFlush =>
    exact respond_issuedBy_of_notListed fun listed => by
      simp only [List.mem_cons, List.not_mem_nil, or_false] at listed
      exact listed.elim notFramer notHost
  case timeout =>
    subst ingress
    exact respond_of_done ((issuedBy_self port).trans (closeAndSwap_eq .ing s))
  case flush =>
    subst egress
    have listed : s.port ∈ [Agent.framer, .host] := by simpa using issuer
    exact respond_of_done (issuedBy_eq_done.mpr ⟨listed, closeAndSwap_eq .egr s⟩)
  case closes => rw [write, if_pos ⟨opened, holds⟩]
  case keeps =>
    rw [write, if_neg]
    rintro ⟨opened, holds⟩
    rcases closedOrEmpty with closed | empty
    · exact Bool.false_ne_true (opened.symm.trans closed)
    · exact holds.ne' empty
  case stuck =>
    obtain ⟨free, holds⟩ := swappable.mp ready
    rcases stuck with readClosed | ⟨opened, empty⟩
    · exact Bool.false_ne_true (free.symm.trans readClosed)
    · rcases holds with closed | holds
      · exact Bool.false_ne_true (opened.symm.trans closed)
      · exact holds.ne' empty

end Sys2Proof.Machine

/-! PROOFS of the transport operations' statements (43_transport.md): the faults of a block run as designed (O56, R174,
R197, R224, R257). -/

namespace Sys2Proof.Machine

/-! ### Operations that raise no fault (R257) -/

/-- The operation does not end in a fault. -/
def Res.NeverFaults {α : Type} (x : Res α) : Prop := ∀ f, x ≠ .abort (.fault f)

section NeverFaults

variable {α β : Type} {x : Res α} {k : α → State → Res β} {s : State} {a : Agent} {i : Nat} {h : Handle} {b : Byte}

theorem Res.neverFaults_done {v : α} : (Res.done v s).NeverFaults := nofun

theorem Res.neverFaults_hold : (Res.abort .hold : Res α).NeverFaults := nofun

theorem Res.neverFaults_stop {f : Fault} : (Res.abort (.stop f) : Res α).NeverFaults := nofun

theorem Res.neverFaults_refuse {r : Refusal} : (Res.abort (.refuse r) : Res α).NeverFaults := nofun

/-- The later part is reached only where the first one is performed. -/
theorem Res.NeverFaults.bind (first : x.NeverFaults) (rest : ∀ v t, x = .done v t → (k v t).NeverFaults) :
    (x.bind k).NeverFaults := by
  intro f faults
  obtain faults | ⟨v, t, done, faults⟩ := Res.bind_eq_abort.mp faults
  · exact first f faults
  · exact rest v t done f faults

theorem Res.NeverFaults.holdUnless {c : Prop} [Decidable c] (goes : c → x.NeverFaults) :
    (holdUnless c x).NeverFaults := by
  unfold Machine.holdUnless
  split
  · exact goes ‹_›
  · exact Res.neverFaults_hold

/-- A check that is met raises nothing. -/
theorem Res.NeverFaults.faultUnless {c : Prop} [Decidable c] {f : FaultName} (met : c) (goes : x.NeverFaults) :
    (faultUnless c f x).NeverFaults := by
  rw [Machine.faultUnless, if_pos met]
  exact goes

theorem Res.NeverFaults.owning (l : isLegalHandle s.cfg h) (owner : s.agentOwning h = some a)
    (goes : x.NeverFaults) : (owning a h s x).NeverFaults :=
  .faultUnless l (.faultUnless owner goes)

theorem Res.NeverFaults.issuedBy {l : List Agent} (listed : a ∈ l) (goes : x.NeverFaults) :
    (issuedBy a l x).NeverFaults :=
  .faultUnless listed goes

/-- An operation of one agent, issued by that agent. -/
theorem Res.NeverFaults.issuedBy_self (goes : x.NeverFaults) : (Machine.issuedBy a [a] x).NeverFaults :=
  .issuedBy (List.mem_singleton_self a) goes

/-! #### The Buffers and the pairs: the issuer owns what it works on (R256) -/

theorem opBufWrite_neverFaults (l : isLegalHandle s.cfg h) (owner : s.agentOwning h = some a) :
    (opBufWrite a h b s).NeverFaults := by
  refine .owning l owner ?_
  split
  case isTrue room =>
    rw [(memWrite_eq_done (u := ())).mpr ⟨⟨l, room.2⟩, rfl⟩]
    exact Res.neverFaults_done
  case isFalse => exact Res.neverFaults_done

theorem memRead_neverFaults (h : Handle) (i : Nat) (s : State) : (memRead h i s).NeverFaults := by
  unfold memRead
  split
  · exact Res.neverFaults_done
  · exact Res.neverFaults_stop

theorem opBufRead_neverFaults (l : isLegalHandle s.cfg h) (owner : s.agentOwning h = some a) :
    (opBufRead a h s).NeverFaults := by
  refine .owning l owner ?_
  split
  · exact Res.neverFaults_done
  · exact .bind (memRead_neverFaults _ _ s) fun _ _ _ => Res.neverFaults_done

/-- The Framer's send swaps only where its guard let it, and the write buffer is its own (R173). -/
theorem opTrPutb_neverFaults (b : Byte) (s : State) : (opTrPutb .framer b s).NeverFaults := by
  refine .issuedBy_self <| .holdUnless fun can => .bind ?_ fun _ s1 _ => .bind ?_ fun _ s2 _ => ?_
  · split
    case isTrue closed =>
      have swaps : opDbSwap .framer .egr s = .done (.ok 0) (s.swapped .egr) :=
        opDbSwap_eq_done.mpr ⟨rfl, State.ready_of_canPut can closed, rfl, rfl⟩
      rw [swaps]
      exact Res.neverFaults_done
    case isFalse => exact Res.neverFaults_done
  · exact .issuedBy_self (opBufWrite_neverFaults (s1.wh_legal .egr) (s1.agentOwning_wh .egr))
  · rw [swapIfReady_swappedIf]
    exact Res.neverFaults_done

/-! #### The Parser: its Buffer is its own and has room (R195 to R198) -/

theorem storeByte_neverFaults (l : isLegalHandle s.cfg h) (owner : s.agentOwning h = some .parser)
    (room : (s.buf h).Writable (s.cap h)) : (storeByte h b s).NeverFaults := by
  rw [(storeByte_eq_done (u := ())).mpr ⟨l, owner, room, rfl⟩]
  exact Res.neverFaults_done

/-- A report holds or is made: no fault comes of it (R244). -/
theorem raiseProtocolError_neverFaults {e : ProtocolError} {k : State → Res α}
    (rest : (k (s.reported e)).NeverFaults) : (raiseProtocolError e s k).NeverFaults :=
  .holdUnless fun _ => rest

theorem parSeekPreamble_neverFaults (i : Nat) (b : Byte) (s : State) : (parSeekPreamble i b s).NeverFaults := by
  unfold parSeekPreamble
  split
  case h_1 => exact Res.neverFaults_refuse
  case h_2 =>
    split
    case isTrue => exact Res.neverFaults_done
    case isFalse => exact raiseProtocolError_neverFaults Res.neverFaults_done

theorem allocate_parser_neverFaults (s : State) : (allocate .parser s).NeverFaults := by
  refine .issuedBy (mem_allocators.mpr (.inl rfl)) <| .holdUnless fun _ => ?_
  split
  · exact Res.neverFaults_done
  · exact Res.neverFaults_stop

/-- A Buffer just opened belongs to the Parser. -/
theorem State.agentOwning_opened {p : Nat} (inv : s.Inv) (l : isPoolHandle s.cfg (poolHandle p)) :
    (s.opened b p).agentOwning (poolHandle p) = some .parser := by
  have owner : (s.opened b p).ownerOf (poolHandle p) = some .heldParser := State.ownerOf_set_same (s := s) rfl inv l
  rw [State.agentOwning_pool (s := s.opened b p) l, owner]
  rfl

/-- A Buffer just opened has room for the length byte. -/
theorem State.opened_writable {p : Nat} (inv : s.Inv) (l : isPoolHandle s.cfg (poolHandle p)) :
    ((s.opened b p).buf (poolHandle p)).Writable ((s.opened b p).cap (poolHandle p)) := by
  have empty : (s.opened b p).buf (poolHandle p) = Buf.empty := State.buf_setBuf_same (s := s) _ inv.bufCount (.inr l)
  rw [empty]
  exact ⟨rfl, capOf_pos (c := s.cfg) inv.cfgValid _⟩

theorem parLengthLegal_neverFaults (inv : s.Inv) : (parLengthLegal b s).NeverFaults := by
  refine .holdUnless fun _ => .bind (allocate_parser_neverFaults _) fun h s1 allocated => ?_
  obtain ⟨-, -, p, pick, rfl, rfl⟩ := allocate_eq_done.mp allocated
  have l := (inv.free_pool (pickFree_some pick)).1
  exact .bind (storeByte_neverFaults (s := s.opened b p) (.inr l) (State.agentOwning_opened inv l)
    (State.opened_writable inv l)) fun _ _ _ => Res.neverFaults_done

/-- The Buffer that the Parser holds is its own (R256). -/
theorem State.agentOwning_pcur (inv : s.Inv) (des : s.Designed) (cur : s.pcur = some h) :
    s.agentOwning h = some .parser := by
  rw [State.agentOwning_pool (inv.pcurPool h cur), des.pcurHeld h cur]
  rfl

/-- While more than the checksum byte is to come, a Buffer that can hold the longest frame is neither full nor closed
(R197). -/
theorem FillFits.writable {c : Config} {buf : Buf} {r : Nat} (fits : FillFits c buf (r + 2))
    (longest : maxStored c ≤ c.poolCap) : buf.Writable c.poolCap := by
  have bounded := fits.bounded
  have room : buf.put < c.poolCap := by
    unfold maxStored at longest
    omega
  refine ⟨?_, room⟩
  by_contra closed
  exact room.ne (fits.closedIffFull.mp (by simpa using closed))

theorem parPayloadData_neverFaults {r : Nat} (inv : s.Inv) (des : s.Designed)
    (longest : maxStored s.cfg ≤ s.cfg.poolCap) (state : s.pstate = .readPayload (r + 2)) (cur : s.pcur = some h) :
    (parPayloadData (r + 2) b h s).NeverFaults := by
  have l := inv.pcurPool h cur
  have room : (s.buf h).Writable (s.cap h) := by
    rw [State.cap, capOf_pool l]
    exact (des.fillFits _ h state cur).writable longest
  have owner : s.agentOwning h = some .parser := State.agentOwning_pcur inv des cur
  exact .bind (storeByte_neverFaults (s := { s with pacc := s.pacc ^^^ b }) (.inr l) owner room) fun _ _ _ =>
    Res.neverFaults_done

theorem parChecksumGood_neverFaults (inv : s.Inv) (des : s.Designed) (cur : s.pcur = some h) :
    (parChecksumGood h s).NeverFaults :=
  have owner : s.agentOwning h = some .parser := State.agentOwning_pcur inv des cur
  .bind (.owning (s := { s with pacc := 0 }) (.inr (inv.pcurPool h cur)) owner Res.neverFaults_done) fun _ _ _ =>
    Res.neverFaults_done

/-- The holder gives its Buffer back without a fault (R162). -/
theorem opPoolFree_neverFaults {o : Owner} (l : isPoolHandle s.cfg h) (owner : s.ownerOf h = some o)
    (holder : heldBy a = some o) : (opPoolFree a h s).NeverFaults :=
  .faultUnless l <| .faultUnless ⟨by rw [owner]; rfl, owner.trans holder.symm⟩ Res.neverFaults_done

theorem parChecksumBad_neverFaults (inv : s.Inv) (des : s.Designed) (cur : s.pcur = some h) :
    (parChecksumBad b h s).NeverFaults := by
  have frees : (opPoolFree .parser h (s.reported .checksumMismatch)).NeverFaults :=
    opPoolFree_neverFaults (inv.pcurPool h cur) (des.pcurHeld h cur) rfl
  exact raiseProtocolError_neverFaults (frees.bind fun _ _ _ => Res.neverFaults_done)

theorem parReadPayload_neverFaults {r : Nat} (inv : s.Inv) (des : s.Designed)
    (longest : maxStored s.cfg ≤ s.cfg.poolCap) (state : s.pstate = .readPayload r) :
    (parReadPayload r b s).NeverFaults := by
  obtain ⟨h, cur⟩ := Option.isSome_iff_exists.mp (inv.pcurValid.mpr ⟨r, state⟩)
  unfold parReadPayload
  rw [cur]
  obtain _ | _ | r := r
  · exact Res.neverFaults_refuse
  · show (if checksumGood s.pacc b then parChecksumGood h s else parChecksumBad b h s).NeverFaults
    split
    · exact parChecksumGood_neverFaults inv des cur
    · exact parChecksumBad_neverFaults inv des cur
  · exact parPayloadData_neverFaults inv des longest state cur

theorem parArm_neverFaults (inv : s.Inv) (des : s.Designed) (longest : maxStored s.cfg ≤ s.cfg.poolCap) (b : Byte) :
    (parArm b s).NeverFaults := by
  unfold parArm
  split
  case h_1 i _ => exact parSeekPreamble_neverFaults i b s
  case h_2 =>
    split
    · exact parLengthLegal_neverFaults inv
    · exact raiseProtocolError_neverFaults Res.neverFaults_done
  case h_3 r state => exact parReadPayload_neverFaults inv des longest state
  case h_4 i _ =>
    unfold parErrorRecovery
    split
    · exact Res.neverFaults_done
    · exact Res.neverFaults_refuse

theorem opParExec_neverFaults (inv : s.Inv) (des : s.Designed) (longest : maxStored s.cfg ≤ s.cfg.poolCap) :
    (opParExec .parser s).NeverFaults := by
  refine .issuedBy_self ?_
  split
  · exact Res.neverFaults_hold
  · exact .bind (parArm_neverFaults inv des longest _) fun _ _ _ => Res.neverFaults_done

/-! #### The Framer: its Buffer is its own (R221 to R224) -/

theorem sendAndCount_neverFaults (b : Byte) (next : State → FState) (s : State) :
    (sendAndCount b next s).NeverFaults :=
  .bind (opTrPutb_neverFaults b s) fun _ _ _ => Res.neverFaults_done

theorem frmIdle_neverFaults (s : State) : (frmIdle s).NeverFaults := by
  unfold frmIdle
  rw [swapIfReady_swappedIf, Res.bind_done]
  split
  · exact Res.neverFaults_done
  · exact .holdUnless fun _ => Res.neverFaults_done

theorem frmPreamble_neverFaults (i : Nat) (h : Handle) (s : State) : (frmPreamble i h s).NeverFaults := by
  unfold frmPreamble
  split
  · exact Res.neverFaults_refuse
  · exact .holdUnless fun _ => sendAndCount_neverFaults _ _ s

/-- The Buffer that the Framer holds is its own (R256). -/
theorem State.agentOwning_fcur (inv : s.Inv) (des : s.Designed) (cur : s.fcur = some h) :
    s.agentOwning h = some .framer := by
  rw [State.agentOwning_pool (inv.fcurPool h cur), des.fcurHeld h cur]
  rfl

theorem frmPayload_neverFaults (inv : s.Inv) (des : s.Designed) (cur : s.fcur = some h) :
    (frmPayload h s).NeverFaults :=
  .holdUnless fun _ =>
    .bind (opBufRead_neverFaults (.inr (inv.fcurPool h cur)) (State.agentOwning_fcur inv des cur)) fun _ s1 _ =>
      sendAndCount_neverFaults _ _ s1

/-- The send before it leaves the Framer its Buffer, which it can then give back (R224). -/
theorem frmChecksum_neverFaults (inv : s.Inv) (des : s.Designed) (cur : s.fcur = some h) :
    (frmChecksum h s).NeverFaults := by
  refine .holdUnless fun _ => .bind (opTrPutb_neverFaults s.facc s) fun r s1 sent => .bind ?_ fun _ s2 _ => .bind ?_ ?_
  · have step : PairStep .egr s s1 := opTrPutb_pairStep _ _ _ _ _ sent
    have l : isPoolHandle s.cfg h := inv.fcurPool h cur
    have held : s1.ownerOf h = some .heldFramer := (step.ownedKept _ h l (des.fcurHeld h cur)).1
    exact opPoolFree_neverFaults (s := { s1 with facc := 0 }) (step.cfg ▸ l) held rfl
  · unfold opTrFlush
    rw [closeAndSwap_eq]
    exact .issuedBy (by decide) Res.neverFaults_done
  · exact fun _ _ _ => Res.neverFaults_done

theorem opFrmStep_neverFaults (inv : s.Inv) (des : s.Designed) : (opFrmStep .framer s).NeverFaults := by
  refine .issuedBy_self <| .bind ?_ fun _ _ _ => Res.neverFaults_done
  unfold frmArm
  split
  case h_1 => exact frmIdle_neverFaults s
  case h_2 => exact Res.neverFaults_refuse
  case h_3 i h _ _ => exact frmPreamble_neverFaults i h s
  case h_4 h _ cur => exact frmPayload_neverFaults inv des cur
  case h_5 h _ cur => exact frmChecksum_neverFaults inv des cur

/-! #### The operations of the internal agents (R256) -/

theorem opTrRxtmo_neverFaults (s : State) : (opTrRxtmo .rx s).NeverFaults := by
  unfold opTrRxtmo
  rw [closeAndSwap_eq]
  exact .issuedBy_self Res.neverFaults_done

theorem opParFetch_neverFaults (ok : s.PairsOk) : (opParFetch .parser s).NeverFaults := by
  rw [opParFetch_parser ok]
  split
  · exact Res.neverFaults_done
  · exact Res.neverFaults_hold

theorem opTrTxbyte_neverFaults (ok : s.PairsOk) : (opTrTxbyte .tx s).NeverFaults := by
  rw [opTrTxbyte_sender ok]
  split
  · exact Res.neverFaults_hold
  · exact Res.neverFaults_done

/-- In a block run as designed no rule of an internal agent faults, but for that of `TR.RXBYTE`. -/
theorem ruleOf_neverFaults {i : Instr} (inv : s.Inv) (des : s.Designed) (longest : maxStored s.cfg ≤ s.cfg.poolCap)
    (internal : s.port ≠ .host) (allowed : AsDesigned s.port i) (noLinkByte : ∀ b, i ≠ .trRxbyte b) :
    (ruleOf i s).NeverFaults := by
  have ok : s.PairsOk := .of_designed inv des
  cases port : s.port with
  | rx =>
    rw [port] at allowed
    obtain rfl | ⟨b, rfl⟩ := allowed
    · rw [ruleOf, port]
      exact opTrRxtmo_neverFaults s
    · exact absurd rfl (noLinkByte b)
  | parser =>
    rw [port] at allowed
    obtain rfl | rfl := allowed
    · rw [ruleOf, port]
      exact opParFetch_neverFaults ok
    · rw [ruleOf, port]
      exact opParExec_neverFaults inv des longest
  | framer =>
    rw [port] at allowed
    obtain rfl := allowed
    rw [ruleOf, port]
    exact opFrmStep_neverFaults inv des
  | tx =>
    rw [port] at allowed
    obtain rfl := allowed
    rw [ruleOf, port]
    exact opTrTxbyte_neverFaults ok
  | host => exact absurd port internal

/-- An operation that does not fault leaves `FAULT` as it is (R44). -/
theorem respond_fault_of_neverFaults {x : Res Reply} {t : State} (goes : x.NeverFaults)
    (keeps : x.KeepsSurroundings s) (run : respond s x = .next t) : t.fault = s.fault := by
  obtain ⟨r, s', done, rfl⟩ | ⟨-, rfl⟩ | ⟨f, faults, -⟩ := respond_eq_next.mp run
  · exact congrArg Surroundings.fault (keeps r s' done)
  · rfl
  · exact absurd faults (goes f)

end NeverFaults

/-! ### The statement -/

/-- A pair whose write buffer is closed and that cannot be swapped has its read buffer closed too (R146). -/
theorem State.readClosed_of_notSwappable {s : State} {d : DbSel} (closed : (s.buf (s.wh d)).closed = true)
    (notReady : ¬ s.Swappable d) : (s.buf (s.rh d)).closed = true := by
  by_contra opened
  exact notReady ⟨Bool.eq_false_of_not_eq_true opened, closed⟩

/-- A link byte leaves `FAULT` as it is, or finds both ingress buffers closed and sets `F_RX_OVERRUN` (R174). -/
theorem exec_trRxbyte_fault {b : Byte} {s t : State} (port : s.port = .rx) (ok : (s.received b).PairsOk)
    (run : exec (.trRxbyte b) s = .next t) :
    t.fault = s.fault ∨
      ((s.buf (s.wh .ing)).closed = true ∧ (s.buf (s.rh .ing)).closed = true ∧
        t.fault = s.fault ||| FaultName.rxOverrun.mask) := by
  rw [exec_trRxbyte_of_receiver port] at run
  by_cases jammed : (s.buf (s.wh .ing)).closed = true ∧ ¬ s.Swappable .ing
  · obtain ⟨closed, notReady⟩ := jammed
    rw [respond_of_fault (opTrRxbyte_of_jammed (s := s.withRx (s.rx ++ [b])) closed notReady)] at run
    injection run with run
    subst run
    exact .inr ⟨closed, State.readClosed_of_notSwappable closed notReady, rfl⟩
  · rw [State.received_of_receiver port] at ok
    have goes : (opTrRxbyte .rx b (s.withRx (s.rx ++ [b]))).NeverFaults := by
      have takes := (opTrRxbyte_receiver ok b).trans (if_neg jammed)
      rw [takes]
      exact Res.neverFaults_done
    have keeps := opTrRxbyte_keepsSurroundings .rx b (s.withRx (s.rx ++ [b]))
    exact .inl (respond_fault_of_neverFaults (s := s.withRx (s.rx ++ [b])) goes keeps run)

/-- Settles O56: a link byte apart, the internal agents own what they work on, and what they fill and swap is ready for
it. -/
theorem internalAgentsFaultOnlyOnOverrun : Obligations.InternalAgentsFaultOnlyOnOverrun := by
  intro i s t inv des longest internal allowed run
  by_cases link : ∃ b, i = .trRxbyte b
  · obtain ⟨b, rfl⟩ := link
    have port : s.port = .rx := by
      generalize s.port = a at allowed internal
      cases a with
      | rx => rfl
      | host => exact absurd rfl internal
      | parser | framer | tx => simp [AsDesigned] at allowed
    have same := s.essence_received b
    have ok : (s.received b).PairsOk := .of_designed (inv.of_essence same) (des.of_essence same)
    exact (exec_trRxbyte_fault port ok run).imp_right fun overrun => ⟨⟨b, rfl⟩, overrun⟩
  · have noLinkByte : ∀ b, i ≠ .trRxbyte b := fun b e => link ⟨b, e⟩
    have noReset : i ≠ .sysReset := by
      rintro rfl
      generalize s.port = a at allowed internal
      cases a with
      | host => exact internal rfl
      | rx | parser | framer | tx => simp [AsDesigned] at allowed
    rw [exec_eq_respond, entryState_eq_self noLinkByte] at run
    exact .inl (respond_fault_of_neverFaults (ruleOf_neverFaults inv des longest internal allowed noLinkByte)
      (ruleOf_keepsSurroundings noReset s) run)

end Sys2Proof.Machine

/-! PROOFS of the Parser's and the output queues' statements (44_parser.md): what each arm of `PAR.EXEC` does with the
latched byte, what `PAR.FETCH` latches and what the host pops (O25 to O33 and O38, R191 to R204). -/

namespace Sys2Proof.Machine

section ParserOperations

variable {s s' : State} {b p : Byte} {h : Handle} {i n r : Nat}

/-! ### `PAR.EXEC` and its arm (R192) -/

/-- The state after `PAR.EXEC` has performed its arm: the latch is emptied and the answer is `OK` (R192). -/
def State.turned (s : State) : State := ({ s with platch := none } : State).answer 0x0000

theorem opParExec_of_arm (latch : s.platch = some b) (arm : parArm b s = .done () s') :
    opParExec .parser s = .done (.ok 0) { s' with platch := none } := by
  rw [opParExec, issuedBy_self rfl, latch]
  exact Res.bind_eq_done.mpr ⟨_, _, arm, rfl⟩

theorem opParExec_of_abort {a : Abort} (latch : s.platch = some b) (arm : parArm b s = .abort a) :
    opParExec .parser s = .abort a := by
  rw [opParExec, issuedBy_self rfl, latch]
  exact Res.bind_eq_abort.mpr (.inl arm)

/-- An arm that is performed empties the latch. -/
theorem exec_parExec_of_arm (port : s.port = .parser) (latch : s.platch = some b) (arm : parArm b s = .done () s') :
    exec .parExec s = .next s'.turned := by
  have performed := opParExec_of_arm latch arm
  rw [← port] at performed
  exact respond_of_done performed

/-- An arm that holds leaves everything as it was. -/
theorem exec_parExec_of_hold (port : s.port = .parser) (latch : s.platch = some b) (arm : parArm b s = .abort .hold) :
    exec .parExec s = .next (s.answer 0x0300) :=
  respond_of_hold (port ▸ opParExec_of_abort latch arm)

/-- An arm that faults leaves everything as it was. -/
theorem exec_parExec_of_fault {f : FaultName} (port : s.port = .parser) (latch : s.platch = some b)
    (arm : parArm b s = .abort (.fault f)) : exec .parExec s = .next (takeFault s f) :=
  respond_of_fault (port ▸ opParExec_of_abort latch arm)

/-- `PAR.EXEC` has no other result than 0x00, and what it performs leaves the latch empty. -/
theorem opParExec_done {a : Agent} {v : Reply} (done : opParExec a s = .done v s') : v = .ok 0 ∧ s'.platch = none := by
  obtain ⟨-, done⟩ := issuedBy_eq_done.mp done
  split at done
  case h_1 => cases done
  case h_2 =>
    obtain ⟨-, s1, -, done⟩ := Res.bind_eq_done.mp done
    obtain ⟨rfl, rfl⟩ := Res.done_eq_done.mp done
    exact ⟨rfl, rfl⟩

/-! ### Error reports and recovery (R201, R244) -/

/-- A report is not made while `ERRQ` is full (R244). -/
theorem raiseProtocolError_of_full {α : Type} {e : ProtocolError} {k : State → Res α}
    (full : s.cfg.errqDepth ≤ s.errq.length) : raiseProtocolError e s k = .abort .hold :=
  holdUnless_of_not full.not_gt

/-- A report goes to the end of `ERRQ` while there is room (R244). -/
theorem raiseProtocolError_of_room {α : Type} {e : ProtocolError} {k : State → Res α}
    (room : s.errq.length < s.cfg.errqDepth) : raiseProtocolError e s k = k (s.reported e) :=
  holdUnless_of room

/-- With nothing matched before, the scan has matched `PRE[0]` or nothing. -/
theorem scanIndex_zero (c : Config) (b : Byte) : scanIndex c 0 b = if c.pre[0]? = some b then 1 else 0 := by
  simp [scanIndex]

/-- Where the offending byte leaves the Parser (R201). -/
theorem enterRecovery_eq_afterError (pos : 1 ≤ s.cfg.k) (b : Byte) :
    enterRecovery b s = { s with pacc := (afterError s.cfg b).2, pstate := (afterError s.cfg b).1 } := by
  rw [enterRecovery_eq, scanIndex_zero, afterError]
  by_cases first : s.cfg.pre[0]? = some b
  · by_cases one : s.cfg.k = 1
    · simp only [if_pos first, if_pos one, if_pos one.symm]
    · simp only [if_pos first, if_neg one, if_neg (Ne.symm one)]
  · have ne : (0 : Nat) ≠ s.cfg.k := by omega
    simp only [if_neg first, if_neg ne]

/-! ### The arms, one equation for each end (R193 to R200) -/

theorem parArm_seekPreamble (state : s.pstate = .seekPreamble i) : parArm b s = parSeekPreamble i b s := by
  rw [parArm, state]

theorem parArm_legal (state : s.pstate = .readLength) (legal : legalLength s.cfg b) :
    parArm b s = parLengthLegal b s := by
  rw [parArm, state]
  exact if_pos legal

theorem parArm_short (state : s.pstate = .readLength) (short : b.toNat < s.cfg.minFrameLen) :
    parArm b s = parLengthShort b s := by
  rw [parArm, state]
  exact if_neg short.not_ge

theorem parArm_data (state : s.pstate = .readPayload (r + 2)) (cur : s.pcur = some h) :
    parArm b s = parPayloadData (r + 2) b h s := by
  simp only [parArm, state, parReadPayload, cur]

theorem parArm_checksum (state : s.pstate = .readPayload 1) (cur : s.pcur = some h) :
    parArm b s = if checksumGood s.pacc b then parChecksumGood h s else parChecksumBad b h s := by
  simp only [parArm, state, parReadPayload, cur]

/-- The expected preamble byte advances the match (R193). -/
theorem parArm_matched (state : s.pstate = .seekPreamble i) (expected : s.cfg.pre[i]? = some b) :
    parArm b s = .done () { s with
      pacc := s.pacc ^^^ b, pstate := if i + 1 = s.cfg.k then .readLength else .seekPreamble (i + 1) } := by
  rw [parArm_seekPreamble state, parSeekPreamble, expected]
  exact if_pos rfl

/-- Any other byte is to be reported (R193). -/
theorem parArm_mismatched (state : s.pstate = .seekPreamble i) (expected : s.cfg.pre[i]? = some p) (ne : b ≠ p) :
    parArm b s =
      raiseProtocolError (.preambleMismatch i) s fun s1 => .done () (enterRecovery b s1) := by
  rw [parArm_seekPreamble state, parSeekPreamble, expected]
  exact if_neg ne

/-- The owner value and the registers of a Buffer just opened for a frame. -/
theorem State.opened_ready (valid : s.cfg.Valid) (sized : s.Sized) {q : Nat} (l : isPoolHandle s.cfg (poolHandle q)) :
    (s.opened b q).agentOwning (poolHandle q) = some .parser ∧ (s.opened b q).buf (poolHandle q) = Buf.empty ∧
      ((s.opened b q).buf (poolHandle q)).Writable ((s.opened b q).cap (poolHandle q)) := by
  have empty : (s.opened b q).buf (poolHandle q) = Buf.empty := State.buf_setBuf_same (s := s) _ sized.1 (.inr l)
  have owner : (s.opened b q).ownerOf (poolHandle q) = some .heldParser :=
    List.getElem?_set_self (sized.2 ▸ poolIndex_lt l)
  refine ⟨?_, empty, ?_⟩
  · rw [State.agentOwning_pool (s := s.opened b q) l, owner]
    rfl
  · rw [empty]
    exact ⟨rfl, capOf_pos (c := s.cfg) valid _⟩

/-- A legal length byte opens a Buffer and is its first byte (R195). -/
theorem parArm_started {q : Nat} (valid : s.cfg.Valid) (sized : s.Sized) (state : s.pstate = .readLength)
    (legal : legalLength s.cfg b) (avail : 0 < s.avail) (pick : pickFree s.owner s.pick = some q)
    (l : isPoolHandle s.cfg (poolHandle q)) :
    parArm b s = .done ()
      { (s.opened b q).stored (poolHandle q) b with pstate := .readPayload (remainingAfter s.cfg b) } := by
  have taken : allocate .parser { s with pacc := s.pacc ^^^ b } =
      .done (poolHandle q) (({ s with pacc := s.pacc ^^^ b } : State).allocated .parser q) :=
    allocate_eq_done.mpr ⟨.inl rfl, avail, q, pick, rfl, rfl⟩
  obtain ⟨owner, -, room⟩ := State.opened_ready (b := b) valid sized l
  have store : storeByte (poolHandle q) b (s.opened b q) = .done () ((s.opened b q).stored (poolHandle q) b) :=
    storeByte_eq_done.mpr ⟨.inr l, owner, room, rfl⟩
  rw [parArm_legal state legal]
  exact holdUnless_eq_done.mpr ⟨avail, Res.bind_eq_done.mpr ⟨_, _, taken, Res.bind_eq_done.mpr ⟨_, _, store, rfl⟩⟩⟩

/-- The Buffer that the Parser fills is its own (R256). -/
theorem State.agentOwning_heldParser (l : isPoolHandle s.cfg h) (held : s.ownerOf h = some .heldParser) :
    s.agentOwning h = some .parser := by
  rw [State.agentOwning_pool l, held]
  rfl

/-- A data byte that fits is stored (R196). -/
theorem parArm_filled (state : s.pstate = .readPayload (r + 2)) (cur : s.pcur = some h) (l : isPoolHandle s.cfg h)
    (held : s.ownerOf h = some .heldParser) (room : (s.buf h).Writable (s.cap h)) :
    parArm b s = .done () (s.filled h b (r + 1)) := by
  have owner : s.agentOwning h = some .parser := State.agentOwning_heldParser l held
  have store : storeByte h b { s with pacc := s.pacc ^^^ b } =
      .done () (({ s with pacc := s.pacc ^^^ b } : State).stored h b) :=
    storeByte_eq_done.mpr ⟨.inr l, owner, room, rfl⟩
  rw [parArm_data state cur]
  exact Res.bind_eq_done.mpr ⟨_, _, store, rfl⟩

/-- A data byte that does not fit is refused, which is the fault (R197). -/
theorem parArm_overflow (state : s.pstate = .readPayload (r + 2)) (cur : s.pcur = some h) (l : isPoolHandle s.cfg h)
    (held : s.ownerOf h = some .heldParser) (refused : ¬ (s.buf h).Writable (s.cap h)) :
    parArm b s = .abort (.fault .payloadOverflow) := by
  have owner : s.agentOwning h = some .parser := State.agentOwning_heldParser l held
  have write : opBufWrite .parser h b { s with pacc := s.pacc ^^^ b } = .done .full { s with pacc := s.pacc ^^^ b } :=
    opBufWrite_eq_done.mpr ⟨.inr l, owner, .inl ⟨refused, rfl, rfl⟩⟩
  rw [parArm_data state cur]
  refine Res.bind_eq_abort.mpr (.inl ?_)
  rw [storeByte, write]
  rfl

/-- A good checksum byte closes and queues the Buffer (R196). -/
theorem parArm_accepted (state : s.pstate = .readPayload 1) (cur : s.pcur = some h) (l : isPoolHandle s.cfg h)
    (held : s.ownerOf h = some .heldParser) (good : s.pacc ^^^ b = 0) :
    parArm b s = .done () (s.accepted h) := by
  have owner : s.agentOwning h = some .parser := State.agentOwning_heldParser l held
  have close : opBufClose .parser h { s with pacc := 0 } =
      .done (.ok 0) (({ s with pacc := 0 } : State).setBuf h { s.buf h with closed := true }) :=
    opBufClose_eq_done.mpr ⟨.inr l, owner, rfl, rfl⟩
  rw [parArm_checksum state cur, if_pos good]
  exact Res.bind_eq_done.mpr ⟨_, _, close, rfl⟩

/-- A bad checksum byte is to be reported (R198). -/
theorem parArm_badChecksum (state : s.pstate = .readPayload 1) (cur : s.pcur = some h) (bad : s.pacc ^^^ b ≠ 0) :
    parArm b s = parChecksumBad b h s := by
  rw [parArm_checksum state cur, if_neg bad]

/-- A bad checksum byte is reported and the Buffer given back, while `ERRQ` has room (R198). -/
theorem parArm_rejected (state : s.pstate = .readPayload 1) (cur : s.pcur = some h) (l : isPoolHandle s.cfg h)
    (held : s.ownerOf h = some .heldParser) (bad : s.pacc ^^^ b ≠ 0) (room : s.errq.length < s.cfg.errqDepth) :
    parArm b s = .done () (enterRecovery b (s.rejected h)) := by
  have owned : (s.ownerOf h).isSome = true := by rw [held]; rfl
  have free : opPoolFree .parser h (s.reported .checksumMismatch) =
      .done (.ok 0) { (s.reported .checksumMismatch).setOwner h .free with avail := s.avail + 1 } :=
    opPoolFree_eq_done.mpr ⟨l, ⟨owned, held⟩, rfl, rfl⟩
  rw [parArm_badChecksum state cur bad, parChecksumBad, raiseProtocolError_of_room room]
  exact Res.bind_eq_done.mpr ⟨_, _, free, rfl⟩

/-- In recovery the byte is scanned (R200). -/
theorem parArm_scanned (state : s.pstate = .errorRecovery i) (lt : i < s.cfg.k) :
    parArm b s = .done () (scan i b { s with pacc := s.pacc ^^^ b }) := by
  rw [parArm, state]
  exact if_pos lt

/-! ### `PAR.FETCH` (R191) -/

theorem opParFetch_of_unread (free : s.platch = none) (unread : ¬ (s.buf (s.rh .ing)).Empty)
    (bounded : (s.buf (s.rh .ing)).put ≤ s.cap (s.rh .ing)) :
    opParFetch .parser s = .done (.ok 0) { s.taken .ing with platch := some (s.firstByte .ing) } := by
  have inside : (s.buf (s.rh .ing)).get < s.cap (s.rh .ing) := (Nat.lt_of_not_le unread).trans_le bounded
  have next : opTrNext .parser s = .done (.ok (s.firstByte .ing)) (s.taken .ing) :=
    opTrNext_eq_done.mpr ⟨rfl, unread, opBufRead_eq_done.mpr
      ⟨s.rh_legal .ing, s.agentOwning_rh .ing, .inr ⟨unread, inside, rfl, rfl⟩⟩⟩
  exact issuedBy_eq_done.mpr ⟨List.mem_singleton_self _, holdUnless_eq_done.mpr
    ⟨free, holdUnless_eq_done.mpr ⟨unread, Res.bind_eq_done.mpr ⟨_, _, next, rfl⟩⟩⟩⟩

end ParserOperations

/-! ### The statements -/

/-- Settles O25: a foreign agent is turned away; a byte in the latch and an empty read buffer hold; else the byte taken
goes to the latch. -/
theorem parFetchLatchesAByte : Obligations.ParFetchLatchesAByte := by
  intro s ⟨len, _⟩ bounded
  refine ⟨rfl, respond_issuedBy_of_ne, fun port => ⟨fun latched => respond_of_hold ?_, fun free empty =>
    respond_of_hold ?_, fun free unread => ?_⟩⟩
  · exact (issuedBy_self port).trans (holdUnless_of_not latched)
  · exact (issuedBy_self port).trans ((holdUnless_of free).trans (holdUnless_of_not (not_not.mpr empty)))
  · have l := s.rh_legal .ing
    have performed := opParFetch_of_unread free unread.not_ge bounded
    rw [← port] at performed
    rw [← Buf.popped_eq]
    exact ⟨_, respond_of_done performed, State.buf_setBuf_same _ len l,
      fun _ l' other => State.buf_setBuf_other _ l l' (by simpa using other), fun _ _ => rfl, rfl⟩

/-- Settles O26: the outcomes of a command (R11), with what `PAR.EXEC` answers and leaves in the latch where it is
performed. -/
theorem parExecActsOnTheLatchedByte : Obligations.ParExecActsOnTheLatchedByte := by
  intro s
  refine ⟨rfl, respond_issuedBy_of_ne, fun port empty => respond_of_hold ?_, fun t run => ?_⟩
  · rw [opParExec, issuedBy_self port, empty]
  · obtain ⟨v, s', done, rfl⟩ | ⟨-, rfl⟩ | ⟨f, -, rfl⟩ := respond_eq_next.mp run
    · obtain ⟨rfl, emptied⟩ := opParExec_done done
      have kept := opParExec_keepsSurroundings s.port s _ _ done
      have rsp : s'.rsp = s.rsp := congrArg Surroundings.rsp kept
      have port : s'.port = s.port := congrArg Surroundings.port kept
      refine .inl ⟨emptied, ?_⟩
      rw [State.answer_rsp, rsp, port]
      rfl
    · exact .inr (.inl rfl)
    · exact .inr (.inr ⟨f, rfl⟩)

/-- Settles O27: the expected byte, and any other byte with `ERRQ` full and with room in it. -/
theorem parserSeeksThePreamble : Obligations.ParserSeeksThePreamble := by
  intro i b p s port latch state expected
  refine ⟨fun same => ?_, fun other full => ?_, fun other room => ?_⟩
  · exact exec_parExec_of_arm port latch (parArm_matched state (same ▸ expected))
  · refine exec_parExec_of_hold port latch ?_
    rw [parArm_mismatched state expected other, raiseProtocolError_of_full full]
  · have pos : 1 ≤ s.cfg.k := Nat.one_le_of_lt (List.getElem?_eq_some_iff.mp expected).1
    have arm := parArm_mismatched state expected other
    rw [raiseProtocolError_of_room room, enterRecovery_eq_afterError (s := s.reported _) pos] at arm
    exact exec_parExec_of_arm port latch arm

/-- Settles O28: a short length byte with `ERRQ` full and with room in it. -/
theorem parserRejectsAShortLength : Obligations.ParserRejectsAShortLength := by
  intro b s pos port latch state short
  have arm := parArm_short state short
  rw [parLengthShort] at arm
  refine ⟨fun full => ?_, fun room => ?_⟩
  · exact exec_parExec_of_hold port latch (arm.trans (raiseProtocolError_of_full full))
  · rw [raiseProtocolError_of_room room, enterRecovery_eq_afterError (s := s.reported _) pos] at arm
    exact exec_parExec_of_arm port latch arm

/-- Settles O29: an empty pool holds; else a Buffer is free, as `avail` counts the free ones, and the one picked is
opened with the length byte in it. -/
theorem parserAllocatesForALegalLength : Obligations.ParserAllocatesForALegalLength := by
  intro b s valid sized counts port latch state legal
  refine ⟨fun empty => ?_, fun avail => ?_⟩
  · refine exec_parExec_of_hold port latch ?_
    rw [parArm_legal state legal]
    exact holdUnless_of_not (by omega)
  · obtain ⟨q, pick⟩ := pickFree_isSome s.pick (List.count_pos_iff.mp (counts ▸ avail))
    have free := pickFree_some pick
    have lt : q < s.cfg.poolSize := sized.2 ▸ (List.getElem?_eq_some_iff.mp free).1
    have l := isPoolHandle_poolHandle valid lt
    obtain ⟨-, empty, -⟩ := State.opened_ready (b := b) valid sized l
    have len : (s.opened b q).bufs.length = 4 + s.cfg.poolSize := (List.length_set ..).trans sized.1
    have buf {h : Handle} := State.buf_stored (s := s.opened b q) (h' := h) b len (.inr l)
    have key : addr (poolHandle q) ((s.opened b q).buf (poolHandle q)).put = addr (poolHandle q) 0 := by rw [empty]; rfl
    refine ⟨q, _, free, exec_parExec_of_arm port latch (parArm_started valid sized state legal avail pick l),
      ?registers, ?stored, fun h l' other => ?buffers, fun k other => ?storage, ?frame⟩
    case registers =>
      refine (buf (.inr l)).trans ?_
      rw [if_pos rfl, empty, Buf.pushed_of_open _ rfl]
      show (⟨0 + 1, 0, decide (0 + 1 = capOf s.cfg (poolHandle q))⟩ : Buf) = _
      rw [capOf_pool l]
      simp [eq_comm]
    case stored =>
      rw [← key]
      exact Memory.read_write_same ..
    case buffers =>
      have ne : h ≠ poolHandle q := by simpa using other
      exact (buf l').trans ((if_neg ne).trans (State.buf_setBuf_other (s := s) _ (.inr l) l' ne))
    case storage =>
      rw [← key] at other
      exact Memory.read_write_other _ _ (by simpa using other)
    case frame =>
      have index : poolIndex (poolHandle q) = q := poolIndex_poolHandle valid lt
      rw [← congrArg (s.owner.set · Owner.heldParser) index]
      rfl

/-- Settles O30: a data byte is stored as `BUF.WRITE` stores it; a good checksum byte closes the Buffer. -/
theorem parserReadsThePayload : Obligations.ParserReadsThePayload := by
  intro r b h s sized l held port latch state cur
  refine ⟨fun more opened room => ?_, fun last good => ?_⟩
  · obtain ⟨r, rfl⟩ := Nat.exists_eq_add_of_le' more
    have frame := BufferFrame.stored (s := s) (h := h) b 0x0000 (.inr l)
    have registers : (s.stored h b).buf h = (s.buf h).pushed (s.cap h) := by
      rw [State.buf_stored b sized.1 (.inr l) (.inr l), if_pos rfl]
    exact ⟨_, exec_parExec_of_arm port latch (parArm_filled state cur l held ⟨opened, room⟩),
      registers.trans (Buf.pushed_of_open _ opened), Memory.read_write_same .., frame.buffers, frame.storage, rfl⟩
  · subst last
    exact ⟨_, exec_parExec_of_arm port latch (parArm_accepted state cur l held good),
      State.buf_setBuf_same (s := s) _ sized.1 (.inr l),
      fun _ l' other => State.buf_setBuf_other (s := s) _ (.inr l) l' (by simpa using other), fun _ _ => rfl, rfl⟩

/-- Settles O31: a closed Buffer and a full one refuse the byte. -/
theorem parserFaultsOnPayloadOverflow : Obligations.ParserFaultsOnPayloadOverflow := by
  intro r b h s l held port latch state cur more unwritable
  obtain ⟨r, rfl⟩ := Nat.exists_eq_add_of_le' more
  have refused : ¬ (s.buf h).Writable (s.cap h) := by
    rintro ⟨opened, room⟩
    rcases unwritable with closed | full
    · exact Bool.false_ne_true (opened.symm.trans closed)
    · exact full.not_gt room
  exact exec_parExec_of_fault port latch (parArm_overflow state cur l held refused)

/-- Settles O32: a bad checksum byte with `ERRQ` full and with room in it. -/
theorem parserRejectsABadChecksum : Obligations.ParserRejectsABadChecksum := by
  intro b h s pos l held port latch state cur bad
  refine ⟨fun full => exec_parExec_of_hold port latch ?_, fun room => ?_⟩
  · exact (parArm_badChecksum state cur bad).trans (raiseProtocolError_of_full full)
  · have arm := parArm_rejected state cur l held bad room
    rw [enterRecovery_eq_afterError (s := s.rejected h) pos] at arm
    exact exec_parExec_of_arm port latch arm

/-- Settles O33: the scan's index is the one the statement writes out. -/
theorem parserScansInRecovery : Obligations.ParserScansInRecovery := by
  rintro i j b s port latch state lt rfl
  have arm := parArm_scanned (b := b) state lt
  rw [scan_eq] at arm
  exact exec_parExec_of_arm port latch arm

/-- Settles O38: a foreign agent is turned away, an empty queue holds, and the head of a queue is handed out. -/
theorem hostPopsTheOldest : Obligations.HostPopsTheOldest := by
  intro s
  refine ⟨rfl, rfl, fun foreign => ⟨respond_issuedBy_of_ne foreign, respond_issuedBy_of_ne foreign⟩,
    fun port => ⟨fun empty => respond_of_hold ?_, fun h rest queue => ?_, fun empty => respond_of_hold ?_,
      fun e rest queue => ?_⟩⟩
  · rw [opOutPop, issuedBy_self port, empty]
  · have pop : opOutPop s.port s = .done (.ok h) { s.setOwner h .heldHost with qOut := rest } := by
      rw [opOutPop, issuedBy_self port, queue]
    exact respond_of_done pop
  · rw [opErrPop, issuedBy_self port, empty]
  · have pop : opErrPop s.port s = .done (.ok e) { s with errq := rest } := by
      rw [opErrPop, issuedBy_self port, queue]
    exact respond_of_done pop

end Sys2Proof.Machine

/-! PROOFS of the Parser's statement about the recovery scan (44_parser.md): it finds every preamble (O34, R199), and
what garbage in front of a preamble makes of it (R201, R205 (c)). -/

namespace Sys2Proof.Machine

/-! ### Matching the preamble (R7 (b), R199)

The scan's index is the length of the longest beginning of the preamble that the bytes seen end in. As `PRE[0]` stands
nowhere else in the preamble, no two matches overlap, and one index is all the scan has to remember. -/

section Matching

variable {pre seen g : List Byte} {b : Byte} {c : Config} {i j : Nat}

/-- The preamble has a first byte (R6). -/
theorem one_le_k : c.Valid → 1 ≤ c.k := fun ⟨pos, _⟩ => pos

/-- `PRE[0]` is not repeated (R7 (b)). -/
theorem preambleStart_once : c.Valid → ∀ a ∈ c.pre.head?, a ∉ c.pre.tail := fun ⟨_, _, once, _⟩ => once

/-- `j` is the length of the longest beginning of `pre` that `seen` ends in. -/
structure Matches (pre seen : List Byte) (j : Nat) : Prop where
  le : j ≤ pre.length
  suffix : pre.take j <:+ seen
  longest : ∀ m ≤ pre.length, pre.take m <:+ seen → m ≤ j

theorem Matches.take (le : i ≤ pre.length) : Matches pre (pre.take i) i where
  le := le
  suffix := List.suffix_rfl
  longest m le' suffix := by simpa [le, le'] using suffix.length_le

/-- The whole preamble is matched exactly when the bytes seen end in it. -/
theorem Matches.eq_length_iff (m : Matches pre seen j) : j = pre.length ↔ pre <:+ seen := by
  constructor
  · rintro rfl
    simpa using m.suffix
  · exact fun ends => le_antisymm m.le (m.longest _ le_rfl (by simpa using ends))

theorem Matches.lt_of_notInfix (m : Matches pre seen j) (clear : ¬ pre <:+: seen) : j < pre.length :=
  lt_of_le_of_ne m.le fun whole => clear (m.eq_length_iff.mp whole).isInfix

theorem take_succ_of_getElem? (byte : pre[i]? = some b) : pre.take (i + 1) = pre.take i ++ [b] := by
  rw [List.take_add_one, byte]
  rfl

theorem concat_suffix_concat {l l' : List Byte} {a : Byte} : l ++ [a] <:+ l' ++ [b] ↔ l <:+ l' ∧ a = b := by
  rw [List.suffix_concat_iff]
  constructor
  · rintro (e | ⟨x, e, ends⟩)
    · simp at e
    · obtain ⟨rfl, last⟩ := List.append_inj' e rfl
      exact ⟨ends, List.singleton_inj.mp last⟩
  · rintro ⟨ends, rfl⟩
    exact .inr ⟨l, rfl, ends⟩

/-- A beginning of the preamble ends in no shorter one, as `PRE[0]` is not repeated (R7 (b)). -/
theorem eq_zero_of_take_suffix_take (once : ∀ a ∈ pre.head?, a ∉ pre.tail) (lt : i < j) (le : j ≤ pre.length)
    (suffix : pre.take i <:+ pre.take j) : i = 0 := by
  obtain _ | i := i
  · rfl
  obtain _ | j := j
  · omega
  obtain _ | ⟨a, pre⟩ := pre
  · simp at le
  obtain ⟨x, e⟩ := suffix
  obtain _ | ⟨y, x⟩ := x
  · have same := congrArg List.length e
    simp only [List.nil_append, List.length_take, List.length_cons] at same le
    omega
  · have e : x ++ a :: pre.take i = pre.take j := (List.cons.inj e).2
    have mem : a ∈ pre.take j := e ▸ List.mem_append_right _ List.mem_cons_self
    exact absurd (List.mem_of_mem_take mem) (once a rfl)

/-- The scan's index after a byte is the longest match after that byte. -/
theorem Matches.scanned (m : Matches c.pre seen j) (once : ∀ a ∈ c.pre.head?, a ∉ c.pre.tail) (lt : j < c.k)
    (b : Byte) : Matches c.pre (seen ++ [b]) (scanIndex c j b) where
  le := scanIndex_le (Nat.one_le_of_lt lt)
  suffix := by
    unfold scanIndex
    split
    case isTrue byte =>
      rw [take_succ_of_getElem? byte]
      exact concat_suffix_concat.mpr ⟨m.suffix, rfl⟩
    case isFalse =>
      split
      case isTrue first =>
        rw [take_succ_of_getElem? first.2]
        exact List.suffix_append seen [b]
      case isFalse => exact List.nil_suffix
  longest := by
    intro n le suffix
    obtain _ | n := n
    · exact Nat.zero_le _
    have byte : c.pre[n]? = some c.pre[n] := List.getElem?_eq_getElem le
    rw [take_succ_of_getElem? byte] at suffix
    obtain ⟨before, last⟩ := concat_suffix_concat.mp suffix
    rw [last] at byte
    unfold scanIndex
    obtain rfl | shorter := (m.longest n (Nat.le_of_succ_le le) before).eq_or_lt
    · rw [if_pos byte]
    · have short : c.pre.take n <:+ c.pre.take j :=
        List.suffix_of_suffix_length_le before m.suffix (by simp only [List.length_take]; omega)
      obtain rfl := eq_zero_of_take_suffix_take once shorter m.le short
      split
      · omega
      · rw [if_pos ⟨shorter, byte⟩]

/-- A sequence that does not begin with `pre` has a first byte where it differs. -/
theorem exists_first_mismatch {w : List Byte} (long : pre.length ≤ w.length) (ne : ¬ pre <+: w) :
    ∃ i b rest, w = pre.take i ++ b :: rest ∧ i < pre.length ∧ pre[i]? ≠ some b := by
  induction pre generalizing w with
  | nil => exact absurd List.nil_prefix ne
  | cons a pre ih =>
    obtain _ | ⟨b, w⟩ := w
    · simp at long
    by_cases same : a = b
    · subst same
      obtain ⟨i, b, rest, rfl, lt, differs⟩ := ih (Nat.le_of_succ_le_succ long) fun pref =>
        ne (List.cons_prefix_cons.mpr ⟨rfl, pref⟩)
      exact ⟨i + 1, b, rest, rfl, Nat.succ_lt_succ lt, differs⟩
    · exact ⟨0, b, w, rfl, Nat.succ_pos _, by simpa using same⟩

/-- How garbage and the preamble of the frame behind it are read: `i` bytes look like a preamble, the byte `b` does
not, and `z` completes the first whole preamble from `b` on, which is the frame's own (R199, R205 (c)). -/
structure GarbageSplit (pre g : List Byte) (i : Nat) (b : Byte) (rest : List Byte) (z : Byte) : Prop where
  bytes : g ++ pre = pre.take i ++ ([b] ++ (rest ++ [z]))
  lt : i < pre.length
  differs : pre[i]? ≠ some b
  ends : pre <:+ [b] ++ rest ++ [z]
  clear : ¬ pre <:+: [b] ++ rest
  atStart : g.head? ≠ pre.head? → i = 0

/-- The part of the garbage that looks like a preamble does not reach into the frame behind it. -/
theorem mismatch_le_length {rest : List Byte} (once : ∀ a ∈ pre.head?, a ∉ pre.tail) (ne : g ≠ [])
    (lt : i < pre.length) (bytes : g ++ pre.dropLast = pre.take i ++ b :: rest) : i ≤ g.length := by
  by_contra longer
  have pos : 0 < g.length := List.length_pos_iff.mpr ne
  have split : g ++ pre.take (i - g.length) = pre.take i := by
    have heads := congrArg (List.take i) bytes
    rw [List.take_append, List.take_of_length_le (by omega), List.take_append_of_le_length (by simp; omega),
      List.take_take, min_self, List.dropLast_eq_take, List.take_take, min_eq_left (by omega)] at heads
    exact heads
  have zero : i - g.length = 0 := eq_zero_of_take_suffix_take once (by omega) lt.le ⟨g, split⟩
  omega

/-- Garbage that hides no whole preamble splits at its first byte that is not as expected, which comes before the frame
behind it ends its preamble. -/
theorem exists_garbageSplit (once : ∀ a ∈ pre.head?, a ∉ pre.tail) (nonempty : pre ≠ []) (ne : g ≠ [])
    (clear : ¬ pre <:+: g ++ pre.dropLast) : ∃ i b rest z, GarbageSplit pre g i b rest z := by
  have pos : 0 < g.length := List.length_pos_iff.mpr ne
  obtain ⟨i, b, rest, bytes, lt, differs⟩ :=
    exists_first_mismatch (w := g ++ pre.dropLast) (by simp; omega) fun pref => clear pref.isInfix
  have le := mismatch_le_length once ne lt bytes
  have whole : pre.dropLast ++ [pre.getLast nonempty] = pre := List.dropLast_append_getLast nonempty
  have behind : g.drop i ++ pre.dropLast = b :: rest := by
    have tails := congrArg (List.drop i) bytes
    rwa [List.drop_append_of_le_length le, List.drop_left' (by simp; omega)] at tails
  refine ⟨i, b, rest, pre.getLast nonempty, ?_, lt, differs, ?_, fun x => ?_, fun heads => ?_⟩
  · calc g ++ pre = g ++ pre.dropLast ++ [pre.getLast nonempty] := by rw [List.append_assoc, whole]
      _ = pre.take i ++ ([b] ++ (rest ++ [pre.getLast nonempty])) := by rw [bytes, List.append_assoc]; rfl
  · rw [List.singleton_append, ← behind, List.append_assoc, whole]
    exact List.suffix_append ..
  · rw [List.singleton_append] at x
    exact clear (x.trans (bytes ▸ (List.suffix_append ..).isInfix))
  · by_contra later
    refine heads ?_
    have first := congrArg List.head? bytes
    obtain ⟨a, g, rfl⟩ := List.exists_cons_of_ne_nil ne
    obtain ⟨p, pre, rfl⟩ := List.exists_cons_of_ne_nil nonempty
    obtain ⟨i, rfl⟩ := Nat.exists_eq_succ_of_ne_zero later
    exact first

end Matching

/-! ### Feeding the Parser (R190, R205) -/

section Feeding

variable {s t u : State} {bs bs' : List Byte} {b : Byte} {n : Nat} {P Q : State → Prop}

/-- Whatever the free inputs of the steps are, the bytes are all taken, and the state after them is as `P` says. -/
def Feeds (s : State) (bs : List Byte) (P : State → Prop) : Prop :=
  ∀ run : List (Byte × Nat), run.map Prod.fst = bs → ∃ t, feedParser run s = .next t ∧ P t

theorem feedParser_append {run run' : List (Byte × Nat)} (first : feedParser run s = .next t) :
    feedParser (run ++ run') s = feedParser run' t := by
  induction run generalizing s with
  | nil => cases first; rfl
  | cons x run ih =>
    obtain ⟨b, n⟩ := x
    simp only [feedParser, List.cons_append] at first ⊢
    split at first
    case h_1 u turn => exact ih first
    case h_2 => cases first
    case h_3 => cases first

theorem Feeds.nil (holds : P s) : Feeds s [] P := by
  intro run e
  obtain rfl := List.map_eq_nil_iff.mp e
  exact ⟨s, rfl, holds⟩

theorem Feeds.single (turn : ∀ n, ∃ t, latchAndExec b n s = .next t ∧ P t) : Feeds s [b] P := by
  intro run e
  obtain ⟨⟨_, n⟩, rfl, rfl⟩ := List.map_eq_singleton_iff.mp e
  obtain ⟨t, next, holds⟩ := turn n
  refine ⟨t, ?_, holds⟩
  simp only [feedParser]
  rw [next]

theorem Feeds.append (first : Feeds s bs Q) (rest : ∀ t, Q t → Feeds t bs' P) : Feeds s (bs ++ bs') P := by
  intro run e
  obtain ⟨run, run', rfl, e, e'⟩ := List.map_eq_append_iff.mp e
  obtain ⟨t, fed, mid⟩ := first run e
  obtain ⟨u, fed', holds⟩ := rest t mid run' e'
  exact ⟨u, (feedParser_append fed).trans fed', holds⟩

theorem Feeds.mono (x : Feeds s bs Q) (weaker : ∀ t, Q t → P t) : Feeds s bs P := fun run e =>
  (x run e).imp fun t => And.imp_right (weaker t)

/-- The state with a byte put into the latch, ready for the Parser's turn. -/
def State.latched (s : State) (b : Byte) (n : Nat) : State := { s with platch := some b, port := .parser, pick := n }

theorem latchAndExec_of_arm (arm : parArm b (s.latched b n) = .done () t) : latchAndExec b n s = .next t.turned :=
  exec_parExec_of_arm rfl rfl arm

/-- A turn of the Parser keeps the invariant. -/
theorem latchAndExec_inv (inv : s.Inv) (run : latchAndExec b n s = .next t) : t.Inv := by
  have latched : (s.latched b n).Inv := inv.of_essence (s := s) rfl
  obtain ⟨v, s', done, rfl⟩ | ⟨-, rfl⟩ | ⟨f, -, rfl⟩ := respond_eq_next.mp run
  · exact State.Inv.of_essence (s := s') rfl (ruleOf_inv .parExec latched v s' done)
  · exact inv.of_essence (s := s) rfl
  · exact inv.of_essence (s := s) rfl

theorem feedParser_inv {run : List (Byte × Nat)} (inv : s.Inv) (fed : feedParser run s = .next t) : t.Inv := by
  induction run generalizing s with
  | nil => cases fed; exact inv
  | cons x run ih =>
    obtain ⟨b, n⟩ := x
    simp only [feedParser] at fed
    split at fed
    case h_1 u turn => exact ih (latchAndExec_inv inv turn) fed
    case h_2 => cases fed
    case h_3 => cases fed

theorem Feeds.withInv (x : Feeds s bs P) (inv : s.Inv) : Feeds s bs fun t => t.Inv ∧ P t := fun run e =>
  (x run e).imp fun _ ⟨fed, holds⟩ => ⟨fed, feedParser_inv inv fed, holds⟩

end Feeding

/-! ### The Parser in the preamble and in recovery (R193, R199, R200) -/

section Scanning

variable {s t u : State} {c : Config} {b acc acc' : Byte} {bs seen g : List Byte} {i j n : Nat} {st st' : PState}

theorem State.scanned.trans (x : s.scanned st acc t) (y : t.scanned st' acc' u) : s.scanned st' acc' u :=
  Eq.trans y (by rw [x])

theorem State.scanned.cfg (x : s.scanned st acc t) : t.cfg = s.cfg := by rw [x]

theorem State.scanned.platch (x : s.scanned st acc t) : t.platch = s.platch := by rw [x]

theorem State.scanned.pstate (x : s.scanned st acc t) : t.pstate = st := by rw [x]

theorem State.scanned.pacc (x : s.scanned st acc t) : t.pacc = acc := by rw [x]

theorem State.scanned.reported (x : s.scanned st acc t) (e : ProtocolError) :
    (s.reported e).scanned st acc (t.reported e) := by
  unfold State.scanned State.reported
  rw [x]

theorem State.scanned.refl (state : s.pstate = st) (xor : s.pacc = acc) : s.scanned st acc s := by
  unfold State.scanned
  rw [← state, ← xor]

/-- A turn that, but for what `u` differs from `s` in, writes the Parser's state and accumulator only. -/
theorem State.scanned.of_arm (latch : u.platch = none)
    (arm : parArm b (s.latched b n) = .done () { u.latched b n with pacc := acc, pstate := st }) :
    ∃ t, latchAndExec b n s = .next t ∧ u.scanned st acc t := by
  refine ⟨_, latchAndExec_of_arm arm, ?_⟩
  unfold State.scanned
  rw [latch]
  rfl

/-- A byte in recovery (R200). -/
theorem latchAndExec_scanned (cfg : s.cfg = c) (latch : s.platch = none) (state : s.pstate = .errorRecovery j)
    (lt : j < c.k) (b : Byte) (n : Nat) :
    ∃ t, latchAndExec b n s = .next t ∧
      s.scanned (if scanIndex c j b = c.k then .readLength else .errorRecovery (scanIndex c j b))
        (if scanIndex c j b = c.k then pXor c else s.pacc ^^^ b) t := by
  subst cfg
  have arm := parArm_scanned (s := s.latched b n) (b := b) state lt
  rw [scan_eq] at arm
  exact State.scanned.of_arm latch arm

/-- While no whole preamble has been seen, the Parser is in recovery with the longest match. -/
theorem feeds_recovery (valid : c.Valid) (cfg : s.cfg = c) (latch : s.platch = none)
    (state : s.pstate = .errorRecovery j) (m : Matches c.pre seen j) (clear : ¬ c.pre <:+: seen ++ bs) :
    Feeds s bs fun t => ∃ j acc, Matches c.pre (seen ++ bs) j ∧ s.scanned (.errorRecovery j) acc t := by
  have once := preambleStart_once valid
  induction bs generalizing s seen j with
  | nil =>
    rw [List.append_nil]
    exact .nil ⟨j, _, m, .refl state rfl⟩
  | cons b bs ih =>
    rw [List.append_cons] at clear ⊢
    have lt : j < c.k := m.lt_of_notInfix fun x =>
      clear (x.trans ((List.prefix_append seen [b]).trans (List.prefix_append _ bs)).isInfix)
    have m' := m.scanned once lt b
    have lt' : scanIndex c j b < c.k := m'.lt_of_notInfix fun x => clear (x.trans (List.prefix_append _ bs).isInfix)
    refine .append (bs := [b]) (.single fun n => latchAndExec_scanned cfg latch state lt b n) fun t x => ?_
    rw [if_neg lt'.ne] at x
    refine (ih (x.cfg.trans cfg) (x.platch.trans latch) x.pstate m' clear).mono ?_
    rintro u ⟨j', acc, m'', y⟩
    exact ⟨j', acc, m'', x.trans y⟩

/-- The byte that completes the first whole preamble leads out of recovery (R199). -/
theorem feeds_recovery_exit (valid : c.Valid) (cfg : s.cfg = c) (latch : s.platch = none)
    (state : s.pstate = .errorRecovery j) (m : Matches c.pre seen j) (ends : c.pre <:+ seen ++ bs ++ [b])
    (clear : ¬ c.pre <:+: seen ++ bs) : Feeds s (bs ++ [b]) (s.scanned .readLength (pXor c)) := by
  refine (feeds_recovery valid cfg latch state m clear).append ?_
  rintro t ⟨j', acc, m', x⟩
  have lt := m'.lt_of_notInfix clear
  have once := preambleStart_once valid
  have whole : scanIndex c j' b = c.k := (m'.scanned once lt b).eq_length_iff.mpr ends
  refine .single fun n => ?_
  obtain ⟨u, next, y⟩ := latchAndExec_scanned (x.cfg.trans cfg) (x.platch.trans latch) x.pstate lt b n
  rw [if_pos whole, if_pos whole] at y
  exact ⟨u, next, x.trans y⟩

/-- The expected preamble byte (R193). -/
theorem latchAndExec_matched (cfg : s.cfg = c) (latch : s.platch = none) (state : s.pstate = .seekPreamble i)
    (byte : c.pre[i]? = some b) (n : Nat) :
    ∃ t, latchAndExec b n s = .next t ∧
      s.scanned (if i + 1 = c.k then .readLength else .seekPreamble (i + 1)) (s.pacc ^^^ b) t := by
  subst cfg
  exact State.scanned.of_arm latch (parArm_matched (s := s.latched b n) state byte)

/-- Preamble bytes in their order are matched one after the other, and the last one leads to `ReadLength` (R193). -/
theorem feeds_take_preamble (cfg : s.cfg = c) (pos : 1 ≤ c.k) (latch : s.platch = none)
    (state : s.pstate = .seekPreamble 0) (zero : s.pacc = 0) (le : i ≤ c.k) :
    Feeds s (c.pre.take i)
      (s.scanned (if i = c.k then .readLength else .seekPreamble i) (xorAll (c.pre.take i))) := by
  induction i with
  | zero =>
    rw [if_neg (by omega)]
    exact .nil (.refl state zero)
  | succ i ih =>
    obtain ⟨b, byte⟩ : ∃ b, c.pre[i]? = some b := ⟨_, List.getElem?_eq_getElem le⟩
    rw [xorAll_take_succ byte, take_succ_of_getElem? byte]
    refine (ih (Nat.le_of_succ_le le)).append fun t x => .single fun n => ?_
    rw [if_neg (by omega)] at x
    obtain ⟨u, next, y⟩ := latchAndExec_matched (x.cfg.trans cfg) (x.platch.trans latch) x.pstate byte n
    rw [x.pacc] at y
    exact ⟨u, next, x.trans y⟩

/-- The whole preamble leads to `ReadLength` with `P_XOR` (R193 (a)). -/
theorem feeds_preamble (cfg : s.cfg = c) (pos : 1 ≤ c.k) (latch : s.platch = none)
    (state : s.pstate = .seekPreamble 0) (zero : s.pacc = 0) : Feeds s c.pre (s.scanned .readLength (pXor c)) := by
  have whole := feeds_take_preamble cfg pos latch state zero le_rfl
  rwa [if_pos rfl, List.take_length] at whole

/-- A byte that is not the expected one is reported, and scanned as the first one of recovery (R193, R201). -/
theorem latchAndExec_mismatched (cfg : s.cfg = c) (latch : s.platch = none) (state : s.pstate = .seekPreamble i)
    (lt : i < c.k) (differs : c.pre[i]? ≠ some b) (room : s.errq.length < c.errqDepth) (n : Nat) :
    ∃ t, latchAndExec b n s = .next t ∧
      (s.reported (.preambleMismatch i)).scanned
        (if scanIndex c 0 b = c.k then .readLength else .errorRecovery (scanIndex c 0 b))
        (if scanIndex c 0 b = c.k then pXor c else 0) t := by
  subst cfg
  have expected : s.cfg.pre[i]? = some s.cfg.pre[i] := List.getElem?_eq_getElem lt
  have ne : b ≠ s.cfg.pre[i] := fun e => differs (e ▸ expected)
  have arm := parArm_mismatched (s := s.latched b n) state expected ne
  rw [raiseProtocolError_of_room (s := s.latched b n) room, enterRecovery_eq] at arm
  exact State.scanned.of_arm (u := s.reported _) latch arm

/-- Garbage is reported once; the scan then finds the preamble of the frame behind it (R193, R199, R205 (c)). -/
theorem feeds_garbage (valid : c.Valid) (cfg : s.cfg = c) (latch : s.platch = none)
    (state : s.pstate = .seekPreamble 0) (zero : s.pacc = 0) (room : s.errq.length < c.errqDepth) (ne : g ≠ [])
    (clear : ¬ c.pre <:+: g ++ c.pre.dropLast) :
    Feeds s (g ++ c.pre) fun t => ∃ i, i < c.k ∧ (g.head? ≠ c.pre.head? → i = 0) ∧
      (s.reported (.preambleMismatch i)).scanned .readLength (pXor c) t := by
  have pos := one_le_k valid
  have once := preambleStart_once valid
  obtain ⟨i, b, rest, z, split⟩ := exists_garbageSplit once (List.length_pos_iff.mp pos) ne clear
  have m : Matches c.pre [b] (scanIndex c 0 b) := (Matches.take (Nat.zero_le _)).scanned once pos b
  have lt : scanIndex c 0 b < c.k :=
    m.lt_of_notInfix fun x => split.clear (x.trans (List.prefix_append [b] rest).isInfix)
  have enters (t : State) (x : s.scanned (.seekPreamble i) (xorAll (c.pre.take i)) t) (n : Nat) :
      ∃ u, latchAndExec b n t = .next u ∧
        (s.reported (.preambleMismatch i)).scanned (.errorRecovery (scanIndex c 0 b)) 0 u := by
    have room' : t.errq.length < c.errqDepth := by rw [x]; exact room
    obtain ⟨u, next, y⟩ :=
      latchAndExec_mismatched (x.cfg.trans cfg) (x.platch.trans latch) x.pstate split.lt split.differs room' n
    rw [if_neg lt.ne, if_neg lt.ne] at y
    exact ⟨u, next, (x.reported _).trans y⟩
  have upTo := feeds_take_preamble cfg pos latch state zero split.lt.le
  rw [if_neg split.lt.ne] at upTo
  rw [split.bytes]
  refine upTo.append fun t x => (Feeds.single (enters t x)).append fun u y => ?_
  refine (feeds_recovery_exit valid (y.cfg.trans cfg) (y.platch.trans latch) y.pstate m split.ends split.clear).mono ?_
  exact fun v z => ⟨i, split.lt, split.atStart, y.trans z⟩

end Scanning

/-- Settles O34: the scan's index is the longest match, so it is the whole preamble exactly when that ends in the bytes
fed. -/
theorem recoveryScanFindsEveryPreamble : Obligations.RecoveryScanFindsEveryPreamble := by
  rintro i run _ s valid latch state lt rfl
  have m : Matches s.cfg.pre (s.cfg.pre.take i) i := .take lt.le
  refine ⟨fun clear => ?_, fun ends clear => ?_⟩
  · obtain ⟨t, fed, j, acc, m', x⟩ := feeds_recovery valid rfl latch state m clear run rfl
    exact ⟨t, j, acc, fed, m'.lt_of_notInfix clear, x⟩
  · obtain e | ⟨bytes, b, e⟩ := (run.map Prod.fst).eq_nil_or_concat'
    · rw [e, List.append_nil] at ends
      exact absurd (m.eq_length_iff.mpr ends) lt.ne
    · rw [e, ← List.append_assoc] at ends clear
      rw [List.dropLast_concat] at clear
      exact feeds_recovery_exit valid rfl latch state m ends clear run e

end Sys2Proof.Machine

/-! PROOFS of the Parser's statements about whole frames (44_parser.md): what the Parser makes of a frame, a corrupted
frame and garbage between two frames (O35 to O37, R205). -/

namespace Sys2Proof.Machine

section Frames

variable {s t u : State} {c : Config} {b l x acc : Byte} {h h' : Handle} {r : Nat} {st : PState}
  {f bs data stored : List Byte}

/-! ### The frame in its parts (R90 to R96) -/

theorem xorAll_concat (bs : List Byte) (b : Byte) : xorAll (bs ++ [b]) = xorAll bs ^^^ b :=
  List.foldl_append ..

/-- A frame behind its preamble: the length byte `l`, the payload `data` and the checksum byte `x`. -/
structure FrameParts (c : Config) (f : List Byte) (l : Byte) (data : List Byte) (x : Byte) : Prop where
  bytes : f = c.pre ++ ([l] ++ data ++ [x])
  stored : storedBytes c f = [l] ++ data
  legal : legalLength c l
  remaining : remainingAfter c l = data.length + 1
  checksum : xorAll (c.pre ++ ([l] ++ data)) ^^^ x = 0

/-- A well-formed frame has these parts: its length byte is its length, and its checksum is zero (R91, R92, R96). -/
theorem exists_frameParts (valid : c.Valid) (wf : WellFormedFrame c f) : ∃ l data x, FrameParts c f l data x := by
  obtain ⟨-, -, -, min, -⟩ := valid
  obtain ⟨long, short, pre, length, xor⟩ := wf
  have split : c.pre ++ f.drop c.k = f := pre ▸ List.take_append_drop c.k f
  obtain ⟨l, rest, tail⟩ : ∃ l rest, f.drop c.k = l :: rest :=
    List.exists_cons_of_ne_nil fun e => by have := List.drop_eq_nil_iff.mp e; omega
  obtain rfl | ⟨data, x, rfl⟩ := rest.eq_nil_or_concat'
  · have count := congrArg List.length tail
    simp only [List.length_drop, List.length_singleton] at count
    omega
  have count := congrArg List.length tail
  simp only [List.length_drop, List.length_append, List.length_cons, List.length_nil] at count
  rw [tail] at split
  have first : l = BitVec.ofNat 8 f.length := by
    rw [← split, List.getElem?_append_right le_rfl, Nat.sub_self] at length
    exact split ▸ Option.some.inj length
  have toNat : l.toNat = f.length := by
    rw [first, BitVec.toNat_ofNat]
    omega
  refine ⟨l, data, x, split.symm, ?_, ?_, ?_, ?_⟩
  · rw [storedBytes, tail, ← List.cons_append, List.dropLast_concat]
    rfl
  · exact long.trans_eq toNat.symm
  · unfold remainingAfter
    omega
  · rw [← xorAll_concat]
    refine Eq.trans (congrArg xorAll ?_) xor
    rw [← split]
    simp

/-! ### The content of the Buffers behind a turn -/

theorem State.content_stored_other (b : Byte) (l : isLegalHandle s.cfg h) (l' : isLegalHandle s.cfg h') (ne : h' ≠ h) :
    (s.stored h b).content h' = s.content h' := by
  have buf : (s.stored h b).buf h' = s.buf h' :=
    State.buf_setBuf_other (s := { s with mem := s.mem.write (addr h (s.buf h).put) b }) _ l l' ne
  refine State.content_congr (by rw [buf]) (by rw [buf]) fun i => ?_
  exact (s.byteAt_write h h' _ i b).trans (if_neg fun same => ne same.1)

/-! ### The Parser amid a frame (R195, R196)

`s` is the state in which the Parser read the last preamble byte or began to look for the preamble: what is as in `s`
does not depend on which. -/

/-- The Parser amid a frame: since `s` it has taken the Buffer `h` and stored the bytes `stored`, and `r` bytes are to
come. -/
structure Filling (s t : State) (h : Handle) (stored : List Byte) (r : Nat) : Prop where
  frame : t = { s with
    bufs := t.bufs, mem := t.mem, avail := s.avail - 1, owner := s.owner.set (poolIndex h) .heldParser
    pacc := t.pacc, pstate := .readPayload r, pcur := some h, platch := none
    port := t.port, pick := t.pick, rsp := t.rsp }
  inv : t.Inv
  pool : isPoolHandle s.cfg h
  fresh : s.ownerOf h = some .free
  pacc : t.pacc = xorAll (s.cfg.pre ++ stored)
  registers : t.buf h = ⟨stored.length, 0, decide (stored.length = s.cfg.poolCap)⟩
  content : t.content h = stored
  others : ∀ h', isLegalHandle s.cfg h' → h' ≠ h → t.content h' = s.content h'

/-- The Parser behind an accepted frame: since `s` it has queued the Buffer `h` with the bytes `stored`. -/
structure Received (s t : State) (h : Handle) (stored : List Byte) : Prop where
  frame : t = { s with
    bufs := t.bufs, mem := t.mem, avail := s.avail - 1, owner := t.owner
    qOut := s.qOut ++ [h], pacc := 0, pstate := .seekPreamble 0, pcur := none, platch := none
    port := t.port, pick := t.pick, rsp := t.rsp }
  inv : t.Inv
  pool : isPoolHandle s.cfg h
  fresh : s.ownerOf h = some .free
  closed : (t.buf h).closed = true
  content : t.content h = stored
  others : ∀ h', isLegalHandle s.cfg h' → h' ≠ h → t.content h' = s.content h'

theorem Filling.cfg (x : Filling s t h stored r) : t.cfg = s.cfg := by rw [x.frame]

theorem Filling.pstate (x : Filling s t h stored r) : t.pstate = .readPayload r := by rw [x.frame]

theorem Filling.pcur (x : Filling s t h stored r) : t.pcur = some h := by rw [x.frame]

theorem Filling.poolAfter (x : Filling s t h stored r) : isPoolHandle t.cfg h := x.cfg ▸ x.pool

theorem Filling.held (x : Filling s t h stored r) : t.ownerOf h = some .heldParser := by
  have owners : t.owner = s.owner.set (poolIndex h) .heldParser := by rw [x.frame]
  have lt : poolIndex h < s.owner.length := by
    have count := x.inv.ownerCount
    rw [owners, List.length_set, x.cfg] at count
    exact count ▸ poolIndex_lt x.pool
  rw [State.ownerOf, owners, List.getElem?_set_self lt]

/-- A legal length byte opens a Buffer and is its first byte (R195). -/
theorem feeds_length (inv : s.Inv) (state : s.pstate = .readLength) (avail : 0 < s.avail)
    (legal : legalLength s.cfg b) : Feeds s [b] fun t => ∃ h, Filling s t h [b] (remainingAfter s.cfg b) := by
  refine .single fun n => ?_
  have latched : (s.latched b n).Inv := inv.of_essence (s := s) rfl
  obtain ⟨q, pick⟩ := pickFree_isSome n (List.count_pos_iff.mp (inv.availCounts ▸ avail))
  obtain ⟨l, fresh⟩ := inv.free_pool (pickFree_some pick)
  have next := latchAndExec_of_arm (parArm_started (s := s.latched b n) inv.cfgValid ⟨inv.bufCount, inv.ownerCount⟩
    state legal avail pick l)
  have opened : ((s.latched b n).opened b q).StorageOk := by
    obtain ⟨-, storage, -⟩ := State.inv_iff.mp latched
    exact StorageFits.allocated (s := { s.latched b n with pacc := s.pacc ^^^ b }) .parser storage l
  obtain ⟨-, empty, -⟩ := State.opened_ready (s := s.latched b n) (b := b) inv.cfgValid ⟨inv.bufCount, inv.ownerCount⟩ l
  have acc : s.pacc = pXor s.cfg := by
    have fits := inv.paccFits
    rwa [state] at fits
  refine ⟨_, next, poolHandle q, rfl, latchAndExec_inv inv next, l, fresh, ?_, ?_, ?_, fun h' l' ne => ?_⟩
  · rw [xorAll_concat]
    exact congrArg (· ^^^ b) acc
  · exact State.buf_opened_stored (b := b) latched l
  · refine (State.content_stored b opened (.inr l)).trans ?_
    rw [State.content_of_empty (by rw [empty]; exact le_rfl)]
    rfl
  · refine (State.content_stored_other (s := (s.latched b n).opened b q) b (.inr l) l' ne).trans ?_
    exact State.content_setBuf_other (s := s) Buf.empty (.inr l) l' ne

/-- A data byte is stored behind the others (R196). -/
theorem Filling.next (x : Filling s t h stored (r + 2)) (room : stored.length < s.cfg.poolCap) (b : Byte) :
    Feeds t [b] fun t => Filling s t h (stored ++ [b]) (r + 1) := by
  refine .single fun n => ?_
  have l := x.poolAfter
  have cap : t.cap h = s.cfg.poolCap := by rw [State.cap, capOf_pool l, x.cfg]
  have writable : (t.buf h).Writable (t.cap h) := by
    rw [x.registers, cap]
    exact ⟨by simpa using room.ne, room⟩
  obtain ⟨-, storage, -⟩ := State.inv_iff.mp x.inv
  have next := latchAndExec_of_arm (parArm_filled (s := t.latched b n) (b := b) x.pstate x.pcur l x.held writable)
  refine ⟨_, next, ?_, latchAndExec_inv x.inv next, x.pool, x.fresh, ?_, ?_, ?_, fun h' l' ne => ?_⟩
  · rw [x.frame]
    rfl
  · rw [← List.append_assoc, xorAll_concat]
    exact congrArg (· ^^^ b) x.pacc
  · refine (State.buf_stored b storage.count (.inr l) (.inr l)).trans ?_
    rw [if_pos rfl, Buf.pushed_of_open _ writable.1, x.registers, cap, List.length_append]
    rfl
  · exact (State.content_stored b storage (.inr l)).trans (congrArg (· ++ [b]) x.content)
  · exact (State.content_stored_other b (.inr l) (x.cfg.symm ▸ l') ne).trans (x.others h' l' ne)

/-- The data bytes are stored in their order, as long as they fit (R196). -/
theorem Filling.fill (x : Filling s t h stored (bs.length + 1)) (fits : stored.length + bs.length ≤ s.cfg.poolCap) :
    Feeds t bs fun t => Filling s t h (stored ++ bs) 1 := by
  induction bs generalizing t stored with
  | nil => exact .nil (by simpa using x)
  | cons b bs ih =>
    rw [List.length_cons] at fits x
    rw [List.append_cons]
    exact (x.next (by omega) b).append fun t y => ih y (by rw [List.length_append, List.length_singleton]; omega)

/-- A good checksum byte queues the Buffer (R196). -/
theorem Filling.accept (x : Filling s t h stored 1) (good : xorAll (s.cfg.pre ++ stored) ^^^ b = 0) :
    Feeds t [b] fun t => Received s t h stored := by
  refine .single fun n => ?_
  have l := x.poolAfter
  have len := x.inv.bufCount
  have next := latchAndExec_of_arm
    (parArm_accepted (s := t.latched b n) (b := b) x.pstate x.pcur l x.held (x.pacc.symm ▸ good))
  have closed : ((t.setBuf h { t.buf h with closed := true }).buf h).closed = true := by
    rw [State.buf_setBuf_same _ len (.inr l)]
  refine ⟨_, next, ?_, latchAndExec_inv x.inv next, x.pool, x.fresh, ?_, ?_, fun h' l' ne => ?_⟩
  · rw [x.frame]
    rfl
  · exact closed
  · exact (State.content_setBuf_same (s := t) (x := { t.buf h with closed := true }) len (.inr l) rfl rfl).trans
      x.content
  · exact (State.content_setBuf_other (s := t) _ (.inr l) (x.cfg.symm ▸ l') ne).trans (x.others h' l' ne)

/-- A bad checksum byte is reported, and the Buffer goes back to the pool (R198, R201). -/
theorem Filling.reject (x : Filling s t h stored 1) (avail : 0 < s.avail) (room : s.errq.length < s.cfg.errqDepth)
    (bad : xorAll (s.cfg.pre ++ stored) ^^^ b ≠ 0) :
    Feeds t [b] fun t => t.errq = s.errq ++ [0xC0] ∧ t.fault = s.fault ∧ t.qOut = s.qOut ∧ t.avail = s.avail ∧
      t.pstate = (afterError s.cfg b).1 ∧ t.pacc = (afterError s.cfg b).2 := by
  refine .single fun n => ?_
  have room' : t.errq.length < t.cfg.errqDepth := by rw [x.frame]; exact room
  have arm := parArm_rejected (s := t.latched b n) x.pstate x.pcur x.poolAfter x.held (x.pacc.symm ▸ bad) room'
  rw [enterRecovery_eq_afterError (s := (t.latched b n).rejected h) (one_le_k x.inv.cfgValid)] at arm
  refine ⟨_, latchAndExec_of_arm arm, ?_⟩
  rw [x.frame]
  exact ⟨rfl, rfl, rfl, Nat.sub_add_cancel avail, rfl, rfl⟩

/-! ### A whole frame (R205 (a)) -/

theorem FrameParts.fits (parts : FrameParts c f l data x) (fits : f.length - c.k - 1 ≤ c.poolCap) :
    1 + data.length ≤ c.poolCap := by
  have count := congrArg List.length parts.bytes
  simp only [List.length_append, List.length_singleton] at count
  unfold Config.k at fits
  omega

/-- Whether the Parser stood before the preamble or behind it does not show in what it has stored. -/
theorem Filling.of_scanned (y : s.scanned st acc u) (z : Filling u t h stored r) : Filling s t h stored r where
  frame := z.frame.trans (by rw [y])
  inv := z.inv
  pool := y.cfg ▸ z.pool
  fresh := by
    have fresh := z.fresh
    rw [y] at fresh
    exact fresh
  pacc := y.cfg ▸ z.pacc
  registers := y.cfg ▸ z.registers
  content := z.content
  others h' l' ne := (z.others h' (y.cfg.symm ▸ l') ne).trans (by rw [y]; rfl)

/-- Behind its preamble, the length byte and the data bytes of a frame that fits are stored (R195, R196). -/
theorem feeds_stored (cfg : s.cfg = c) (inv : u.Inv) (y : s.scanned .readLength acc u) (avail : 0 < s.avail)
    (parts : FrameParts c f l data x) (fits : f.length - c.k - 1 ≤ c.poolCap) :
    Feeds u ([l] ++ data) fun t => ∃ h, Filling s t h ([l] ++ data) 1 := by
  have cfg' : u.cfg = c := y.cfg.trans cfg
  have avail' : 0 < u.avail := by rw [y]; exact avail
  refine (feeds_length inv y.pstate avail' (cfg' ▸ parts.legal)).append ?_
  rintro t ⟨h, z⟩
  rw [cfg', parts.remaining] at z
  exact (z.fill (cfg' ▸ parts.fits fits)).mono fun v w => ⟨h, w.of_scanned y⟩

/-- Behind its preamble, a frame that fits is accepted (R195, R196). -/
theorem feeds_behindPreamble (cfg : s.cfg = c) (inv : u.Inv) (y : s.scanned .readLength acc u) (avail : 0 < s.avail)
    (parts : FrameParts c f l data x) (fits : f.length - c.k - 1 ≤ c.poolCap) :
    Feeds u ([l] ++ data ++ [x]) fun t => ∃ h, Received s t h (storedBytes c f) := by
  refine (feeds_stored cfg inv y avail parts fits).append ?_
  rintro t ⟨h, z⟩
  exact parts.stored ▸ (z.accept (cfg ▸ parts.checksum)).mono fun v w => ⟨h, w⟩

/-- The Parser looks for a preamble, with nothing matched yet and no byte latched. -/
structure State.Seeking (s : State) : Prop where
  inv : s.Inv
  latch : s.platch = none
  state : s.pstate = .seekPreamble 0

theorem State.Seeking.pacc (seeking : s.Seeking) : s.pacc = 0 := by
  have fits := seeking.inv.paccFits
  rw [seeking.state] at fits
  exact fits

/-- The preamble leaves the Parser to read the length byte. -/
theorem State.Seeking.feeds_preamble (seeking : s.Seeking) (cfg : s.cfg = c) :
    Feeds s c.pre fun t => t.Inv ∧ s.scanned .readLength (pXor c) t :=
  (Machine.feeds_preamble cfg (one_le_k (cfg ▸ seeking.inv.cfgValid)) seeking.latch seeking.state seeking.pacc).withInv
    seeking.inv

/-- A well-formed frame that fits is accepted (R205 (a)). -/
theorem State.Seeking.feeds_frame (seeking : s.Seeking) (cfg : s.cfg = c) (avail : 0 < s.avail)
    (wf : WellFormedFrame c f) (fits : f.length - c.k - 1 ≤ c.poolCap) :
    Feeds s f fun t => ∃ h, Received s t h (storedBytes c f) := by
  obtain ⟨l, data, x, parts⟩ := exists_frameParts (cfg ▸ seeking.inv.cfgValid) wf
  have whole := (seeking.feeds_preamble cfg).append fun u ⟨inv, y⟩ => feeds_behindPreamble cfg inv y avail parts fits
  rwa [← parts.bytes] at whole

theorem Received.seeking (z : Received s t h stored) : t.Seeking := ⟨z.inv, by rw [z.frame], by rw [z.frame]⟩

theorem Received.cfg (z : Received s t h stored) : t.cfg = s.cfg := by rw [z.frame]

theorem Received.errq (z : Received s t h stored) : t.errq = s.errq := by rw [z.frame]

theorem Received.fault (z : Received s t h stored) : t.fault = s.fault := by rw [z.frame]

theorem Received.qOut (z : Received s t h stored) : t.qOut = s.qOut ++ [h] := by rw [z.frame]

theorem Received.avail (z : Received s t h stored) : t.avail = s.avail - 1 := by rw [z.frame]

/-- Garbage is reported once, and the well-formed frame behind it is accepted (R205 (c)). -/
theorem State.Seeking.feeds_garbage_frame {g : List Byte} (seeking : s.Seeking) (cfg : s.cfg = c)
    (avail : 0 < s.avail) (room : s.errq.length < c.errqDepth) (ne : g ≠ []) (clear : ¬ c.pre <:+: g ++ c.pre.dropLast)
    (wf : WellFormedFrame c f) (fits : f.length - c.k - 1 ≤ c.poolCap) :
    Feeds s (g ++ f) fun t => ∃ h i, i < c.k ∧ (g.head? ≠ c.pre.head? → i = 0) ∧
      Received (s.reported (.preambleMismatch i)) t h (storedBytes c f) := by
  have valid : c.Valid := cfg ▸ seeking.inv.cfgValid
  obtain ⟨l, data, x, parts⟩ := exists_frameParts valid wf
  have split : g ++ f = g ++ c.pre ++ ([l] ++ data ++ [x]) := by rw [List.append_assoc g, ← parts.bytes]
  have garbage := feeds_garbage valid cfg seeking.latch seeking.state seeking.pacc room ne clear
  rw [split]
  refine (garbage.withInv seeking.inv).append ?_
  rintro u ⟨inv, i, lt, atStart, y⟩
  exact (feeds_behindPreamble (s := s.reported _) cfg inv y avail parts fits).mono
    fun t ⟨h, z⟩ => ⟨h, i, lt, atStart, z⟩

end Frames

/-! ### The statements -/

/-- Settles O35: the preamble, the length byte, the data bytes and the checksum byte, each with its arm. -/
theorem parserAcceptsAWellFormedFrame : Obligations.ParserAcceptsAWellFormedFrame := by
  intro f run s inv latch state avail wf fits bytes
  have seeking : s.Seeking := ⟨inv, latch, state⟩
  obtain ⟨t, fed, h, z⟩ := seeking.feeds_frame rfl avail wf fits run bytes
  exact ⟨t, h, fed, z.errq, z.fault, z.qOut, z.content, z.closed, z.seeking.state, z.seeking.pacc, z.avail⟩

/-- Settles O36: the frame is the same up to its checksum byte, and there is one good checksum byte only. -/
theorem parserRejectsACorruptedFrame : Obligations.ParserRejectsACorruptedFrame := by
  intro f x run s inv latch state avail room wf fits other bytes
  have seeking : s.Seeking := ⟨inv, latch, state⟩
  obtain ⟨l, data, x', parts⟩ := exists_frameParts inv.cfgValid wf
  have front : f = s.cfg.pre ++ ([l] ++ data) ++ [x'] := parts.bytes.trans (List.append_assoc ..).symm
  have bad : xorAll (s.cfg.pre ++ ([l] ++ data)) ^^^ x ≠ 0 := by
    intro good
    have same : x' = x :=
      (BitVec.xor_eq_zero_iff.mp parts.checksum).symm.trans (BitVec.xor_eq_zero_iff.mp good)
    exact other (by rw [front, List.getLast?_concat, same])
  have upToChecksum := (seeking.feeds_preamble rfl).append fun u ⟨inv, y⟩ => feeds_stored rfl inv y avail parts fits
  have corrupted := upToChecksum.append fun t ⟨h, z⟩ => z.reject (b := x) avail room bad
  refine corrupted run ?_
  rw [bytes, front, List.dropLast_concat]

/-- Settles O37: a frame, garbage with the next frame's preamble, and the rest of that frame. The second Buffer was
free, so it is not the one already queued. -/
theorem parserResynchronises : Obligations.ParserResynchronises := by
  intro f g f' run s inv latch state avail room wf fits wf' fits' ne clear bytes
  have seeking : s.Seeking := ⟨inv, latch, state⟩
  have first := seeking.feeds_frame rfl (by omega) wf fits
  have both : Feeds s (f ++ (g ++ f')) fun v => ∃ t h h' i, Received s t h (storedBytes s.cfg f) ∧
      i < s.cfg.k ∧ (g.head? ≠ s.cfg.pre.head? → i = 0) ∧
        Received (t.reported (.preambleMismatch i)) v h' (storedBytes s.cfg f') := by
    refine first.append ?_
    rintro t ⟨h, z⟩
    have room' : t.errq.length < s.cfg.errqDepth := by rw [z.errq]; exact room
    have avail' : 0 < t.avail := by rw [z.avail]; omega
    refine (z.seeking.feeds_garbage_frame z.cfg avail' room' ne clear wf' fits').mono ?_
    rintro v ⟨h', i, lt, atStart, w⟩
    exact ⟨t, h, h', i, z, lt, atStart, w⟩
  rw [← List.append_assoc] at both
  obtain ⟨v, fed, t, h, h', i, z, lt, atStart, w⟩ := both run bytes
  have queued : t.ownerOf h = some .inQOut := (z.inv.qOutFits.owned h (by rw [z.qOut]; simp)).2
  have other : h ≠ h' := by
    rintro rfl
    cases queued.symm.trans w.fresh
  have l : isLegalHandle t.cfg h := .inr (z.cfg.symm ▸ z.pool)
  refine ⟨v, h, h', i, fed, lt, atStart, ?_, w.fault.trans z.fault, ?_, (w.others h l other).trans z.content, w.content,
    w.seeking.state, w.seeking.pacc⟩
  · rw [w.errq, State.reported, z.errq]
    rfl
  · rw [w.qOut, State.reported, z.qOut]
    simp

end Sys2Proof.Machine

/-! PROOFS of the Framer's statements (45_framer.md): what each arm of `FRM.STEP` sends and leaves, and what `FRM.POST`
queues (O39 to O42 and O45, R220 to R226). -/

namespace Sys2Proof.Machine

section FramerOperations

variable {s t s' : State} {d : DbSel} {b p : Byte} {h : Handle} {i : Nat} {rest : List Handle}

/-! ### `FRM.STEP` and its arm (R220) -/

/-- An arm that is performed is answered with `OK`. -/
theorem exec_frmStep_of_arm (port : s.port = .framer) (arm : frmArm s = .done () s') :
    exec .frmStep s = .next (s'.answer 0x0000) := by
  have performed : opFrmStep s.port s = .done (.ok 0) s' :=
    (issuedBy_self port).trans (Res.bind_eq_done.mpr ⟨_, _, arm, rfl⟩)
  exact respond_of_done performed

/-- An arm that holds leaves everything as it was. -/
theorem exec_frmStep_of_hold (port : s.port = .framer) (arm : frmArm s = .abort .hold) :
    exec .frmStep s = .next (s.answer 0x0300) :=
  respond_of_hold ((issuedBy_self port).trans (Res.bind_eq_abort.mpr (.inl arm)))

theorem frmArm_idle (state : s.fstate = .idle) : frmArm s = frmIdle s := by rw [frmArm, state]

theorem frmArm_preamble (state : s.fstate = .preamble i) (cur : s.fcur = some h) : frmArm s = frmPreamble i h s := by
  rw [frmArm, state, cur]

theorem frmArm_payload (state : s.fstate = .payload) (cur : s.fcur = some h) : frmArm s = frmPayload h s := by
  rw [frmArm, state, cur]

theorem frmArm_checksum (state : s.fstate = .checksum) (cur : s.fcur = some h) : frmArm s = frmChecksum h s := by
  rw [frmArm, state, cur]

/-! ### Arm `Idle` (R221) -/

@[simp] theorem State.swappedIf_qIn (s : State) (d : DbSel) : (s.swappedIf d).qIn = s.qIn :=
  congrArg Control.qIn (PairStep.swappedIf d s).control

/-- A queued Buffer is popped, behind a swap that was pending. -/
theorem frmIdle_of_queued (queue : s.qIn = h :: rest) :
    frmIdle s = .done () ((s.swappedIf .egr).popped h rest) := by
  rw [frmIdle, swapIfReady_swappedIf, Res.bind_done, State.swappedIf_qIn, queue]
  rfl

/-- With nothing queued there is a pending swap to do, or nothing. -/
theorem frmIdle_of_noneQueued (empty : s.qIn = []) :
    frmIdle s = holdUnless (s.Swappable .egr) (.done () (s.swappedIf .egr)) := by
  rw [frmIdle, swapIfReady_swappedIf, Res.bind_done, State.swappedIf_qIn, empty]

/-! ### The state around a pair after an operation on it -/

theorem PairStep.counted_answer (x : PairStep d s t) (b : Byte) (next : FState) (w : RspWord) :
    (t.counted b next).answer w = { t with facc := s.facc ^^^ b, fstate := next, rsp := s.rsp.set s.port w } := by
  rw [x.frame]
  rfl

theorem PairStep.popped_answer (x : PairStep d s t) (h : Handle) (rest : List Handle) (w : RspWord) :
    (t.popped h rest).answer w = { t with
      qIn := rest, owner := s.owner.set (poolIndex h) .heldFramer, fcur := some h, facc := 0, fstate := .preamble 0
      rsp := s.rsp.set s.port w } := by
  rw [x.frame]
  rfl

theorem PairStep.finished_answer (x : PairStep d s t) (h : Handle) (w : RspWord) :
    (t.finished h).answer w = { t with
      facc := 0, owner := s.owner.set (poolIndex h) .free, avail := s.avail + 1, fcur := none, fstate := .idle
      rsp := s.rsp.set s.port w } := by
  rw [x.frame]
  rfl

/-- An operation on a pair leaves the registers of a pool Buffer. -/
theorem PairStep.buf_pool (x : PairStep d s t) (l : isPoolHandle s.cfg h) : t.buf h = s.buf h :=
  x.buffers h (.inr l) (ne_slotHandle l d)

/-! ### A byte sent (R222, R223) -/

/-- Where a byte can be sent and finds room, it is passed into the egress pair and counted. -/
theorem sendAndCount_of_canSend (len : s.bufs.length = 4 + s.cfg.poolSize) (room : s.HasRoom .egr) (can : s.CanSend)
    (next : State → FState) :
    sendAndCount b next s = .done () ((s.passed .egr b).counted b (next (s.passed .egr b))) :=
  sendAndCount_eq_done.mpr ⟨_, _, opTrPutb_of_canSend len room can, rfl⟩

theorem PairStep.passed_of_canSend (len : s.bufs.length = 4 + s.cfg.poolSize) (room : s.HasRoom .egr)
    (can : s.CanSend) (b : Byte) : PairStep .egr s (s.passed .egr b) :=
  .passed len room (State.ready_of_canPut can) b

/-- The state behind the byte `PRE[i]` (R222). -/
def preambleNext (i : Nat) (h : Handle) (s : State) : FState :=
  if i + 1 < s.cfg.k then .preamble (i + 1) else payloadOrChecksum h s

/-- Where a byte leads turns on the Framer's Buffer, which the send leaves alone. -/
theorem PairStep.preambleNext_eq (x : PairStep d s t) (l : isPoolHandle s.cfg h) :
    preambleNext i h t = preambleNext i h s := by
  rw [preambleNext, preambleNext, payloadOrChecksum, payloadOrChecksum, x.cfg, x.buf_pool l]

theorem frmPreamble_of_canSend (len : s.bufs.length = 4 + s.cfg.poolSize) (room : s.HasRoom .egr) (can : s.CanSend)
    (byte : s.cfg.pre[i]? = some p) :
    frmPreamble i h s = .done () ((s.passed .egr p).counted p (preambleNext i h (s.passed .egr p))) := by
  have cfg : (s.passed .egr p).cfg = s.cfg := (PairStep.passed_of_canSend len room can p).cfg
  rw [frmPreamble, byte, preambleNext, cfg]
  exact (holdUnless_of can).trans (sendAndCount_of_canSend len room can _)

theorem frmPreamble_of_jammed (jammed : ¬ s.CanSend) (byte : s.cfg.pre[i]? = some p) :
    frmPreamble i h s = .abort .hold := by
  rw [frmPreamble, byte]
  exact holdUnless_of_not jammed

/-! ### A byte read and sent (R223) -/

/-- The state with the next byte of the Framer's Buffer read (R122). -/
def State.readFrom (s : State) (h : Handle) : State := s.setBuf h (s.buf h).popped

/-- The next byte of a Buffer (R122). -/
def State.nextByte (s : State) (h : Handle) : Byte := s.byteAt h (s.buf h).get

theorem PairsKept.readFrom (l : isPoolHandle s.cfg h) : PairsKept s (s.readFrom h) := .setBuf l _

theorem PairsKept.wh (x : PairsKept s t) (d : DbSel) : t.wh d = s.wh d := congrArg (slotHandle d) (x.selector d)

theorem PairsKept.rh (x : PairsKept s t) (d : DbSel) : t.rh d = s.rh d :=
  congrArg (fun a => slotHandle d !a) (x.selector d)

theorem PairsKept.buf_wh (x : PairsKept s t) (d : DbSel) : t.buf (t.wh d) = s.buf (s.wh d) := by
  rw [x.wh]
  exact x.slots d _

theorem PairsKept.buf_rh (x : PairsKept s t) (d : DbSel) : t.buf (t.rh d) = s.buf (s.rh d) := by
  rw [x.rh]
  exact x.slots d _

/-- Whether a byte can be sent turns on the egress pair only (R173). -/
theorem PairsKept.canSend_iff (x : PairsKept s t) : t.CanSend ↔ s.CanSend := by
  unfold State.CanSend State.Swappable
  rw [x.buf_wh, x.buf_rh]

/-- Whether a byte finds room turns on the pair and the capacities only. -/
theorem PairsKept.hasRoom (x : PairsKept s t) (cfg : t.cfg = s.cfg) (room : s.HasRoom d) : t.HasRoom d := by
  unfold State.HasRoom State.cap
  rw [x.buf_wh, cfg, x.wh, x.rh]
  exact room

/-- The Framer's Buffer is its own (R256). -/
theorem State.agentOwning_heldFramer (l : isPoolHandle s.cfg h) (held : s.ownerOf h = some .heldFramer) :
    s.agentOwning h = some .framer := by
  rw [State.agentOwning_pool l, held]
  rfl

theorem frmPayload_of_canSend (len : s.bufs.length = 4 + s.cfg.poolSize) (room : s.HasRoom .egr) (can : s.CanSend)
    (l : isPoolHandle s.cfg h) (held : s.ownerOf h = some .heldFramer) (unread : ¬ (s.buf h).Empty)
    (bounded : (s.buf h).put ≤ s.cap h) :
    frmPayload h s = .done () (((s.readFrom h).passed .egr (s.nextByte h)).counted (s.nextByte h)
      (payloadOrChecksum h ((s.readFrom h).passed .egr (s.nextByte h)))) := by
  have inside : (s.buf h).get < s.cap h := (Nat.lt_of_not_le unread).trans_le bounded
  have read : opBufRead .framer h s = .done (.ok (s.nextByte h)) (s.readFrom h) :=
    opBufRead_eq_done.mpr ⟨.inr l, State.agentOwning_heldFramer l held, .inr ⟨unread, inside, rfl, rfl⟩⟩
  have kept : PairsKept s (s.readFrom h) := .readFrom l
  have len' : (s.readFrom h).bufs.length = 4 + (s.readFrom h).cfg.poolSize := (List.length_set ..).trans len
  rw [frmPayload, holdUnless_of can, read]
  exact sendAndCount_of_canSend len' (kept.hasRoom rfl room) (kept.canSend_iff.mpr can) _

/-! ### The frame finished (R224) -/

/-- The state with the Buffer `h` given back by the Framer, which has not turned to `Idle` yet (R224). -/
def State.givenBack (s : State) (h : Handle) : State := { s.finished h with fstate := s.fstate }

theorem State.givenBack_swapped (s : State) (h : Handle) (d : DbSel) :
    (s.givenBack h).swapped d = (s.swapped d).givenBack h := by
  cases d
  · rfl
  · rfl

theorem State.givenBack_swappedIf (s : State) (h : Handle) (d : DbSel) :
    (s.givenBack h).swappedIf d = (s.swappedIf d).givenBack h := by
  rw [State.swappedIf, State.swappedIf, apply_ite (State.givenBack · h), State.givenBack_swapped]
  rfl

theorem State.givenBack_trailingClosed (s : State) (h : Handle) (d : DbSel) :
    (s.givenBack h).trailingClosed d = (s.trailingClosed d).givenBack h := by
  rw [State.trailingClosed, State.trailingClosed, apply_ite (State.givenBack · h)]
  rfl

/-- The flush of the pair does not look at what the Framer gives back. -/
theorem State.givenBack_pushedOut (s : State) (h : Handle) (d : DbSel) :
    (s.givenBack h).pushedOut d = (s.pushedOut d).givenBack h := by
  rw [State.pushedOut_eq, State.givenBack_trailingClosed, State.givenBack_swappedIf, ← State.pushedOut_eq]

theorem frmChecksum_of_canSend (len : s.bufs.length = 4 + s.cfg.poolSize) (room : s.HasRoom .egr) (can : s.CanSend)
    (l : isPoolHandle s.cfg h) (held : s.ownerOf h = some .heldFramer) :
    frmChecksum h s = .done () (((s.passed .egr s.facc).pushedOut .egr).finished h) := by
  have sent := PairStep.passed_of_canSend len room can s.facc
  rw [frmChecksum, holdUnless_of can, opTrPutb_of_canSend len room can, Res.bind_done]
  generalize s.passed .egr s.facc = u at sent
  have held' : u.ownerOf h = some .heldFramer := (sent.ownedKept _ h l held).1
  have owned : (u.ownerOf h).isSome = true := by rw [held']; rfl
  have free : opPoolFree .framer h { u with facc := 0 } =
      .done (.ok 0) { ({ u with facc := 0 } : State).setOwner h .free with avail := u.avail + 1 } :=
    opPoolFree_eq_done.mpr ⟨sent.cfg.symm ▸ l, ⟨owned, held'⟩, rfl, rfl⟩
  have flush : opTrFlush .framer (u.givenBack h) = .done (.ok 0) ((u.pushedOut .egr).givenBack h) :=
    issuedBy_eq_done.mpr ⟨List.mem_cons_self, by rw [closeAndSwap_eq, State.givenBack_pushedOut]⟩
  exact Res.bind_eq_done.mpr ⟨_, _, free, Res.bind_eq_done.mpr ⟨_, _, flush, rfl⟩⟩

/-! ### `FRM.POST` (R226) -/

theorem faultUnless_of_not {α : Type} {c : Prop} [Decidable c] {f : FaultName} {x : Res α} (fails : ¬ c) :
    faultUnless c f x = .abort (.fault f) := if_neg fails

theorem faultUnless_of {α : Type} {c : Prop} [Decidable c] {f : FaultName} {x : Res α} (met : c) :
    faultUnless c f x = x := if_pos met

/-- Only the host posts, and only what it holds (R226, R256). -/
theorem opFrmPost_of_notHolder {a : Agent} (l : isPoolHandle s.cfg h)
    (foreign : a ≠ .host ∨ s.ownerOf h ≠ some .heldHost) : opFrmPost a h s = .abort (.fault .ownership) := by
  rw [opFrmPost, faultUnless_of l]
  by_cases host : a = .host
  · rw [issuedBy_self host, faultUnless_of_not (foreign.resolve_left (not_not.mpr host))]
  · exact faultUnless_of_not (by simpa using host)

/-- For the holder the flag decides. -/
theorem opFrmPost_of_holder (l : isPoolHandle s.cfg h) (held : s.ownerOf h = some .heldHost) :
    opFrmPost .host h s = faultUnless ((s.buf h).closed = true) .postOpen
      (.done (.ok 0) { s.setOwner h .inQIn with qIn := s.qIn ++ [h] }) := by
  rw [opFrmPost, faultUnless_of l, issuedBy_self rfl, faultUnless_of held]

end FramerOperations

/-! ### The statements -/

/-- Settles O39: a foreign agent is turned away; the arm by what is queued and whether a swap is pending. -/
theorem framerIdleSwapsAndPops : Obligations.FramerIdleSwapsAndPops := by
  refine fun s => ⟨rfl, respond_issuedBy_of_ne, fun port state => ⟨fun empty stuck => ?_, fun empty ready => ?_,
    fun h rest queue => ?_⟩⟩
  · refine exec_frmStep_of_hold port ?_
    rw [frmArm_idle state, frmIdle_of_noneQueued empty, holdUnless_of_not stuck]
  · refine exec_frmStep_of_arm port ?_
    rw [frmArm_idle state, frmIdle_of_noneQueued empty, holdUnless_of ready, State.swappedIf, if_pos ready]
  · rw [exec_frmStep_of_arm port ((frmArm_idle state).trans (frmIdle_of_queued queue)),
      (PairStep.swappedIf .egr s).popped_answer]

/-- Settles O40: the send leaves the Framer's Buffer, so what follows turns on its registers of before. -/
theorem framerSendsThePreamble : Obligations.FramerSendsThePreamble := by
  intro i p h s ⟨len, _⟩ room l port state cur byte
  refine ⟨fun jammed => ?_, fun can => ⟨?_, .of_ready len room (State.ready_of_canPut can) p⟩⟩
  · exact exec_frmStep_of_hold port ((frmArm_preamble state cur).trans (frmPreamble_of_jammed jammed byte))
  · have sent := PairStep.passed_of_canSend len room can p
    rw [exec_frmStep_of_arm port ((frmArm_preamble state cur).trans (frmPreamble_of_canSend len room can byte)),
      sent.counted_answer, sent.preambleNext_eq l]
    rfl

/-- Settles O41: the read changes the Framer's own Buffer only, so the byte is sent as it would have been before it. -/
theorem framerSendsThePayload : Obligations.FramerSendsThePayload := by
  intro h s s' ⟨len, _⟩ room l held port state cur unread bounded after
  rw [← Buf.popped_eq] at after
  obtain rfl : s' = s.readFrom h := after
  have kept : PairsKept s (s.readFrom h) := .readFrom l
  have len' : (s.readFrom h).bufs.length = 4 + (s.readFrom h).cfg.poolSize := (List.length_set ..).trans len
  have room' : (s.readFrom h).HasRoom .egr := kept.hasRoom rfl room
  refine ⟨fun jammed => ?_, fun can => ?_⟩
  · exact exec_frmStep_of_hold port ((frmArm_payload state cur).trans (holdUnless_of_not jammed))
  · have can' : (s.readFrom h).CanSend := kept.canSend_iff.mpr can
    have sent := PairStep.passed_of_canSend len' room' can' (s.nextByte h)
    have registers : ((s.readFrom h).passed .egr (s.nextByte h)).buf h = (s.buf h).popped :=
      (sent.buf_pool l).trans (State.buf_setBuf_same _ len (.inr l))
    refine ⟨?_, .of_ready len' room' (State.ready_of_canPut can') _⟩
    rw [exec_frmStep_of_arm port ((frmArm_payload state cur).trans
        (frmPayload_of_canSend len room can l held unread.not_ge bounded)),
      sent.counted_answer, payloadOrChecksum, registers]
    rfl

/-- Settles O42: the send and the flush are two operations on the egress pair, which leave the rest to the free. -/
theorem framerSendsTheChecksum : Obligations.FramerSendsTheChecksum := by
  intro h s ⟨len, _⟩ room l held port state cur
  refine ⟨fun jammed => ?_, fun can => ?_⟩
  · exact exec_frmStep_of_hold port ((frmArm_checksum state cur).trans (holdUnless_of_not jammed))
  · have flushed : PairStep .egr s ((s.passed .egr s.facc).pushedOut .egr) :=
      (PairStep.passed_of_canSend len room can s.facc).trans (.pushedOut .egr _)
    refine ⟨?_, .of_ready len room (State.ready_of_canPut can) _, fun k _ => ?_, flushed.buffersKept⟩
    · rw [exec_frmStep_of_arm port ((frmArm_checksum state cur).trans (frmChecksum_of_canSend len room can l held)),
        flushed.finished_answer]
    · rw [State.pushedOut_mem]

/-- Settles O45: the handle, the issuer, the holder and the flag are checked in this order. -/
theorem frmPostQueuesAClosedBuffer : Obligations.FrmPostQueuesAClosedBuffer := by
  intro h s
  refine ⟨rfl, fun notPool => respond_of_fault (faultUnless_of_not notPool), fun l =>
    ⟨fun foreign => respond_of_fault (opFrmPost_of_notHolder l foreign), fun port held => ?_⟩⟩
  have post := opFrmPost_of_holder l held
  rw [← port] at post
  refine ⟨fun opened => respond_of_fault (post.trans (faultUnless_of_not (by simp [opened]))), fun closed => ?_⟩
  rw [faultUnless_of closed] at post
  exact respond_of_done post

end Sys2Proof.Machine

/-! PROOFS of the Framer's statements about whole frames (45_framer.md): the frame it emits (O44), what it still owes of
it at each turn (O43), and that the Parser accepts it (O59, R225, R227, R228). -/

namespace Sys2Proof.Machine

section EmittedFrames

variable {s t : State} {d : DbSel} {b p : Byte} {h : Handle} {i : Nat}

/-! ### The bytes owed (R225)

Whatever bytes are to come before the checksum byte, the accumulator goes on counting them. -/

theorem foldl_xor (bs : List Byte) (acc : Byte) : bs.foldl (· ^^^ ·) acc = acc ^^^ xorAll bs :=
  calc bs.foldl (· ^^^ ·) acc = bs.foldl (· ^^^ ·) (acc ^^^ 0#8) := by rw [BitVec.xor_zero]
    _ = acc ^^^ xorAll bs := List.foldl_assoc

theorem xorAll_cons (b : Byte) (bs : List Byte) : xorAll (b :: bs) = b ^^^ xorAll bs :=
  calc bs.foldl (· ^^^ ·) (0#8 ^^^ b) = bs.foldl (· ^^^ ·) b := by rw [BitVec.zero_xor]
    _ = b ^^^ xorAll bs := foldl_xor bs b

theorem xorAll_append (bs bs' : List Byte) : xorAll (bs ++ bs') = xorAll bs ^^^ xorAll bs' :=
  List.foldl_append.trans (foldl_xor bs' _)

/-- The bytes `rest` and the checksum byte behind them, when the accumulator stands at `acc` (R222 to R224). -/
def owed (acc : Byte) (rest : List Byte) : List Byte := rest ++ [acc ^^^ xorAll rest]

theorem owed_nil (acc : Byte) : owed acc [] = [acc] := congrArg (fun b => [b]) BitVec.xor_zero

/-- A byte sent and counted is owed no more, and the checksum byte stays the same. -/
theorem owed_cons (acc b : Byte) (rest : List Byte) : owed acc (b :: rest) = b :: owed (acc ^^^ b) rest := by
  rw [owed, xorAll_cons, ← BitVec.xor_assoc]
  rfl

theorem emittedFrame_eq_owed (c : Config) (x : List Byte) : emittedFrame c x = owed 0 (c.pre ++ x) :=
  congrArg (fun b => c.pre ++ x ++ [b]) BitVec.zero_xor.symm

theorem length_emittedFrame (c : Config) (x : List Byte) : (emittedFrame c x).length = c.k + 1 + x.length := by
  simp only [emittedFrame, List.length_append, List.length_singleton, Config.k]
  omega

/-! ### What the Framer owes in each of its states (R220) -/

theorem State.framerOwes_idle (state : s.fstate = .idle) : s.framerOwes = [] := by
  rw [State.framerOwes, state]

theorem State.framerOwes_preamble (state : s.fstate = .preamble i) (cur : s.fcur = some h) :
    s.framerOwes = owed s.facc (s.cfg.pre.drop i ++ s.content h) := by
  rw [State.framerOwes, state, cur, owed, xorAll_append, ← BitVec.xor_assoc]

theorem State.framerOwes_payload (state : s.fstate = .payload) (cur : s.fcur = some h) :
    s.framerOwes = owed s.facc (s.content h) := by
  rw [State.framerOwes, state, cur, owed]

theorem State.framerOwes_checksum (state : s.fstate = .checksum) (cur : s.fcur = some h) :
    s.framerOwes = [s.facc] := by
  rw [State.framerOwes, state, cur]

/-- A drained Buffer has no content, so in either state the content is what is owed (R222, R223). -/
theorem State.framerOwes_payloadOrChecksum (state : s.fstate = payloadOrChecksum h s) (cur : s.fcur = some h) :
    s.framerOwes = owed s.facc (s.content h) := by
  by_cases empty : (s.buf h).Empty
  · rw [payloadOrChecksum, if_pos empty] at state
    rw [State.framerOwes_checksum state cur, State.content_of_empty empty, owed_nil]
  · rw [payloadOrChecksum, if_neg empty] at state
    exact State.framerOwes_payload state cur

/-- Behind the last preamble byte the content is owed, before it the other preamble bytes too (R222). -/
theorem State.framerOwes_preambleNext (state : s.fstate = preambleNext i h s) (cur : s.fcur = some h) :
    s.framerOwes = owed s.facc (s.cfg.pre.drop (i + 1) ++ s.content h) := by
  by_cases more : i + 1 < s.cfg.k
  · rw [preambleNext, if_pos more] at state
    exact State.framerOwes_preamble state cur
  · rw [preambleNext, if_neg more] at state
    rw [List.drop_eq_nil_of_le (not_lt.mp more), List.nil_append]
    exact State.framerOwes_payloadOrChecksum state cur

/-! ### The Framer's Buffer and the egress stream behind an operation on the egress pair -/

theorem PairStep.content_pool (x : PairStep d s t) (l : isPoolHandle s.cfg h)
    (bytes : ∀ i, t.byteAt h i = s.byteAt h i) : t.content h = s.content h :=
  State.content_congr (by rw [x.buf_pool l]) (by rw [x.buf_pool l]) bytes

theorem State.byteAt_swappedIf (s : State) (d : DbSel) (h : Handle) (i : Nat) :
    (s.swappedIf d).byteAt h i = s.byteAt h i := by
  unfold State.swappedIf
  split
  · exact s.byteAt_swapped d h i
  · rfl

theorem State.byteAt_readyToPut (s : State) (d : DbSel) (h : Handle) (i : Nat) :
    (s.readyToPut d).byteAt h i = s.byteAt h i := by
  unfold State.readyToPut
  split
  · exact s.byteAt_swapped d h i
  · rfl

/-- A byte passed into a pair stands in a slot, not in a pool Buffer (R52, R104). -/
theorem State.byteAt_passed (l : isPoolHandle s.cfg h) (i : Nat) : (s.passed d b).byteAt h i = s.byteAt h i := by
  rw [State.passed, State.byteAt_swappedIf, ← s.byteAt_readyToPut d]
  exact (State.byteAt_write _ _ h _ i b).trans (if_neg fun same => ne_slotHandle l d _ same.1)

theorem State.PairsOk.hasRoom (ok : s.PairsOk) (d : DbSel) : s.HasRoom d :=
  ⟨capOf_pos ok.valid _, capOf_pos ok.valid _, (ok.pairs d).openWriteRoom⟩

theorem State.PairsOk.passed (ok : s.PairsOk) (can : s.CanSend) (b : Byte) : PairStep .egr s (s.passed .egr b) :=
  .passed_of_canSend ok.storage.count (ok.hasRoom .egr) can b

/-- A byte sent is the last of the egress stream (R173). -/
theorem State.egressStream_passed (ok : s.PairsOk) (can : s.CanSend) (b : Byte) :
    (s.passed .egr b).egressStream = s.egressStream ++ [b] :=
  (Moves.passed ok (State.ready_of_canPut can)).egressStream (congrArg Control.tx (ok.passed can b).control)

theorem BytesStay.egressStream (x : BytesStay s t) : t.egressStream = s.egressStream :=
  State.egressStream_congr x.tx (x.inFlight .egr)

theorem BytesStay.swappedIf (ok : s.PairsOk) (d : DbSel) : BytesStay s (s.swappedIf d) :=
  ⟨(Moves.swappedIf ok).same, congrArg Control.tx (PairStep.swappedIf d s).control⟩

/-! ### A turn of the Framer -/

theorem State.egressStream_counted (s : State) (b : Byte) (next : FState) :
    (s.counted b next).egressStream = s.egressStream := rfl

theorem State.egressStream_finished (s : State) (h : Handle) : (s.finished h).egressStream = s.egressStream := rfl

/-- The turn sends the first byte owed. -/
def SendsOwed (s t : State) : Prop :=
  ∃ b, t.egressStream = s.egressStream ++ [b] ∧ s.framerOwes = b :: t.framerOwes

theorem SendsOwed.answer (x : SendsOwed s t) (w : RspWord) : SendsOwed s (t.answer w) := x

/-- Bytes sent and bytes owed together stay the same. -/
theorem SendsOwed.conserved (x : SendsOwed s t) :
    t.egressStream ++ t.framerOwes = s.egressStream ++ s.framerOwes := by
  obtain ⟨b, stream, owes⟩ := x
  rw [stream, owes, List.append_assoc]
  rfl

/-- Arm `Preamble(i)` sends `PRE[i]` (R222). -/
theorem SendsOwed.preamble (ok : s.PairsOk) (can : s.CanSend) (l : isPoolHandle s.cfg h)
    (state : s.fstate = .preamble i) (cur : s.fcur = some h) (byte : s.cfg.pre[i]? = some p) :
    SendsOwed s ((s.passed .egr p).counted p (preambleNext i h (s.passed .egr p))) := by
  have step := ok.passed can p
  have content : (s.passed .egr p).content h = s.content h := step.content_pool l (State.byteAt_passed l)
  have facc : (s.passed .egr p).facc = s.facc := congrArg Control.facc step.control
  have cur' : (s.passed .egr p).fcur = some h := (congrArg Control.fcur step.control).trans cur
  refine ⟨p, (State.egressStream_counted ..).trans (State.egressStream_passed ok can p), ?_⟩
  calc s.framerOwes = owed s.facc (p :: (s.cfg.pre.drop (i + 1) ++ s.content h)) := by
        rw [State.framerOwes_preamble state cur, List.drop_eq_getElem?_toList_append, byte]
        rfl
    _ = p :: owed ((s.passed .egr p).facc ^^^ p)
          ((s.passed .egr p).cfg.pre.drop (i + 1) ++ (s.passed .egr p).content h) := by
        rw [owed_cons, facc, step.cfg, content]
    _ = p :: State.framerOwes ((s.passed .egr p).counted p (preambleNext i h (s.passed .egr p))) :=
        congrArg _ (State.framerOwes_preambleNext (s := (s.passed .egr p).counted p _) rfl cur').symm

/-- Arm `Payload` sends the next byte of the Buffer (R223). -/
theorem SendsOwed.payload (ok : s.PairsOk) (can : s.CanSend) (l : isPoolHandle s.cfg h) (unread : ¬ (s.buf h).Empty)
    (state : s.fstate = .payload) (cur : s.fcur = some h) :
    SendsOwed s (((s.readFrom h).passed .egr (s.nextByte h)).counted (s.nextByte h)
      (payloadOrChecksum h ((s.readFrom h).passed .egr (s.nextByte h)))) := by
  have kept : PairsKept s (s.readFrom h) := .readFrom l
  have read : BytesStay s (s.readFrom h) := kept.bytesStay rfl
  have order : (s.buf h).popped.get ≤ (s.buf h).popped.put := not_le.mp unread
  have ok' : (s.readFrom h).PairsOk := kept.pairsOk ok rfl (ok.storage.setBuf (.inr l) order le_rfl)
  have can' : (s.readFrom h).CanSend := kept.canSend_iff.mpr can
  have stream := State.egressStream_passed ok' can' (s.nextByte h)
  have step := ok'.passed can' (s.nextByte h)
  have content := step.content_pool l (State.byteAt_passed (d := .egr) (b := s.nextByte h) l)
  generalize (s.readFrom h).passed .egr (s.nextByte h) = u at stream step content
  have facc : u.facc = s.facc := congrArg Control.facc step.control
  have cur' : u.fcur = some h := (congrArg Control.fcur step.control).trans cur
  refine ⟨s.nextByte h, ?_, ?_⟩
  · rw [State.egressStream_counted, stream, read.egressStream]
  · calc s.framerOwes = owed s.facc (s.nextByte h :: (s.readFrom h).content h) := by
          rw [State.framerOwes_payload state cur, State.content_popped ok.storage (.inr l) unread]
          rfl
      _ = s.nextByte h :: owed (u.facc ^^^ s.nextByte h) (u.content h) := by rw [owed_cons, facc, content]
      _ = s.nextByte h :: (u.counted (s.nextByte h) (payloadOrChecksum h u)).framerOwes :=
          congrArg _ (State.framerOwes_payloadOrChecksum (s := u.counted _ _) rfl cur').symm

/-- Arm `Checksum` sends the accumulator, and the flush moves nothing (R224). -/
theorem SendsOwed.checksum (ok : s.PairsOk) (can : s.CanSend) (state : s.fstate = .checksum)
    (cur : s.fcur = some h) : SendsOwed s (((s.passed .egr s.facc).pushedOut .egr).finished h) := by
  have flushed : BytesStay (s.passed .egr s.facc) ((s.passed .egr s.facc).pushedOut .egr) :=
    .pushedOut .egr ((ok.passed can s.facc).pairsOk ok)
  refine ⟨s.facc, ?_, ?_⟩
  · rw [State.egressStream_finished, flushed.egressStream, State.egressStream_passed ok can]
  · rw [State.framerOwes_checksum state cur, State.framerOwes_idle rfl]

/-- In `Preamble(i)` there is a byte to send (R36). -/
theorem State.Inv.preambleByte (inv : s.Inv) (state : s.fstate = .preamble i) : ∃ p, s.cfg.pre[i]? = some p := by
  have range := inv.fstateRange
  rw [state] at range
  exact ⟨_, List.getElem?_eq_getElem range⟩

/-- Amid a frame the arm holds while no byte can be sent. -/
theorem frmArm_of_jammed (inv : s.Inv) (cur : s.fcur = some h) (busy : s.fstate ≠ .idle) (jammed : ¬ s.CanSend) :
    frmArm s = .abort .hold := by
  cases state : s.fstate with
  | idle => exact absurd state busy
  | preamble i =>
    obtain ⟨p, byte⟩ := inv.preambleByte state
    exact (frmArm_preamble state cur).trans (frmPreamble_of_jammed jammed byte)
  | payload => exact (frmArm_payload state cur).trans (holdUnless_of_not jammed)
  | checksum => exact (frmArm_checksum state cur).trans (holdUnless_of_not jammed)

/-- Amid a frame the arm sends the first byte owed while one can be sent. -/
theorem frmArm_of_canSend (inv : s.Inv) (des : s.Designed) (cur : s.fcur = some h) (busy : s.fstate ≠ .idle)
    (can : s.CanSend) : ∃ u, frmArm s = .done () u ∧ SendsOwed s u := by
  have ok : s.PairsOk := .of_designed inv des
  have len := ok.storage.count
  have room := ok.hasRoom .egr
  have l := inv.fcurPool h cur
  have held := des.fcurHeld h cur
  cases state : s.fstate with
  | idle => exact absurd state busy
  | preamble i =>
    obtain ⟨p, byte⟩ := inv.preambleByte state
    exact ⟨_, (frmArm_preamble state cur).trans (frmPreamble_of_canSend len room can byte),
      .preamble ok can l state cur byte⟩
  | payload =>
    have unread := des.payloadHolds state h cur
    have bounded := (inv.cursors h (.inr l)).2
    exact ⟨_, (frmArm_payload state cur).trans (frmPayload_of_canSend len room can l held unread bounded),
      .payload ok can l unread state cur⟩
  | checksum =>
    exact ⟨_, (frmArm_checksum state cur).trans (frmChecksum_of_canSend len room can l held),
      .checksum ok can state cur⟩

/-- Amid a frame a turn holds, with nothing changed but the answer, or sends the first byte owed. -/
theorem exec_frmStep_of_busy (inv : s.Inv) (des : s.Designed) (port : s.port = .framer) (busy : s.fstate ≠ .idle)
    (run : exec .frmStep s = .next t) : t = s.answer 0x0300 ∨ SendsOwed s t := by
  obtain ⟨h, cur⟩ := Option.isSome_iff_exists.mp (inv.fcurValid.mpr busy)
  by_cases can : s.CanSend
  · obtain ⟨u, arm, sends⟩ := frmArm_of_canSend inv des cur busy can
    have next := run.symm.trans (exec_frmStep_of_arm port arm)
    obtain rfl : t = u.answer 0x0000 := by injection next
    exact .inr (sends.answer _)
  · have next := run.symm.trans (exec_frmStep_of_hold port (frmArm_of_jammed inv cur busy can))
    obtain rfl : t = s.answer 0x0300 := by injection next
    exact .inl rfl

/-- With nothing queued, a turn of an idle Framer moves no byte. -/
theorem exec_frmStep_of_noneQueued (ok : s.PairsOk) (port : s.port = .framer) (state : s.fstate = .idle)
    (empty : s.qIn = []) (run : exec .frmStep s = .next t) : t.egressStream = s.egressStream := by
  have arm := (frmArm_idle state).trans (frmIdle_of_noneQueued empty)
  by_cases ready : s.Swappable .egr
  · have next := run.symm.trans (exec_frmStep_of_arm port (arm.trans (holdUnless_of ready)))
    obtain rfl : t = (s.swappedIf .egr).answer 0x0000 := by injection next
    exact (BytesStay.swappedIf ok .egr).egressStream
  · have next := run.symm.trans (exec_frmStep_of_hold port (arm.trans (holdUnless_of_not ready)))
    obtain rfl : t = s.answer 0x0300 := by injection next
    rfl

/-- A pop makes an idle Framer owe the whole frame, of which no byte is sent yet (R221, R225). -/
theorem exec_frmStep_of_queued {queue : List Handle} (inv : s.Inv) (ok : s.PairsOk) (port : s.port = .framer)
    (state : s.fstate = .idle) (queued : s.qIn = h :: queue) (run : exec .frmStep s = .next t) :
    t.egressStream = s.egressStream ∧ t.framerOwes = emittedFrame s.cfg (s.content h) := by
  have next := run.symm.trans
    (exec_frmStep_of_arm port ((frmArm_idle state).trans (frmIdle_of_queued queued)))
  obtain rfl : t = ((s.swappedIf .egr).popped h queue).answer 0x0000 := by injection next
  obtain ⟨l, -⟩ := inv.qInFits.owned h (queued ▸ List.mem_cons_self)
  have step : PairStep .egr s (s.swappedIf .egr) := .swappedIf .egr s
  have content : (s.swappedIf .egr).content h = s.content h := step.content_pool l (s.byteAt_swappedIf .egr h)
  refine ⟨(BytesStay.swappedIf ok .egr).egressStream, ?_⟩
  calc ((s.swappedIf .egr).popped h queue).framerOwes
      = owed 0 ((s.swappedIf .egr).cfg.pre.drop 0 ++ (s.swappedIf .egr).content h) :=
        State.framerOwes_preamble (s := (s.swappedIf .egr).popped h queue) rfl rfl
    _ = emittedFrame s.cfg (s.content h) := by rw [step.cfg, content, List.drop_zero, emittedFrame_eq_owed]

end EmittedFrames

/-! ### The statements -/

/-- Settles O43: amid a frame a turn holds or sends the first byte owed; an idle Framer sends nothing, and a pop makes
it owe the frame. -/
theorem framerEmitsWhatItOwes : Obligations.FramerEmitsWhatItOwes := by
  intro s t inv des port run
  have ok : s.PairsOk := .of_designed inv des
  refine ⟨fun busy => ?_, fun state => ⟨?_, fun h queue queued => ?_⟩⟩
  · obtain rfl | sends := exec_frmStep_of_busy inv des port busy run
    · rfl
    · exact sends.conserved
  · cases queued : s.qIn with
    | nil => exact exec_frmStep_of_noneQueued ok port state queued run
    | cons h queue => exact (exec_frmStep_of_queued inv ok port state queued run).1
  · exact (exec_frmStep_of_queued inv ok port state queued run).2

/-- Settles O44: the checksum byte is the XOR of all bytes before it, and the content begins with the frame's length. -/
theorem emittedFrameIsWellFormed : Obligations.EmittedFrameIsWellFormed := by
  intro c x
  have xor : xorAll (emittedFrame c x) = 0 := (xorAll_concat _ _).trans BitVec.xor_self
  refine ⟨xor, fun _ long short first => ?_⟩
  have split : emittedFrame c x = c.pre ++ (x ++ [xorAll (c.pre ++ x)]) := List.append_assoc ..
  have lengthByte : (emittedFrame c x)[c.k]? = x[0]? := by
    obtain ⟨pos, -⟩ := List.getElem?_eq_some_iff.mp first
    rw [split, List.getElem?_append_right le_rfl, Nat.sub_self, List.getElem?_append_left pos]
  refine ⟨⟨?_, ?_, ?_, ?_, xor⟩, ?_⟩
  · rwa [length_emittedFrame]
  · rwa [length_emittedFrame]
  · rw [split, List.take_left]
  · rw [lengthByte, first, length_emittedFrame]
  · rw [storedBytes, split, List.drop_left, List.dropLast_concat]

/-- Settles O59: the frame emitted is a well-formed one (O44), so the Parser accepts it (O35). -/
theorem parserAcceptsWhatTheFramerEmits : Obligations.ParserAcceptsWhatTheFramerEmits := by
  intro x run s inv latch state avail long short fits first bytes
  obtain ⟨wf, stored⟩ := (emittedFrameIsWellFormed s.cfg x).2 inv.cfgValid long short first
  have fits' : (emittedFrame s.cfg x).length - s.cfg.k - 1 ≤ s.cfg.poolCap := by
    rw [length_emittedFrame]
    omega
  obtain ⟨t, h, fed, errq, fault, queued, content, -⟩ :=
    parserAcceptsAWellFormedFrame _ run s inv latch state avail wf fits' bytes
  exact ⟨t, h, fed, errq, fault, queued, content.trans stored⟩

end Sys2Proof.Machine

/-! PROOFS of the ownership statements (60_exceptions.md): who owns a Buffer (O50) and which agent writes a register
(O51). -/

namespace Sys2Proof.Machine

/-! ### Who is answered (R100, R256) -/

/-- The five agents (R10). -/
def agents : List Agent := [.rx, .parser, .framer, .tx, .host]

theorem mem_agents (a : Agent) : a ∈ agents := by cases a <;> decide

/-- The agents an operation is listed for; one that asks for the owner of a Buffer, or for nothing, is listed for
all. -/
def issuersOf : Instr → List Agent
  | .dbPut d _ => [producer d]
  | .dbPeek d | .dbTake d => [consumer d]
  | .dbSwap d => [swapOwner d]
  | .poolAlloc => [.parser, .host]
  | .trRxbyte _ | .trRxtmo => [.rx]
  | .trNext | .parFetch | .parExec => [.parser]
  | .trPutb _ | .frmStep => [.framer]
  | .trFlush => [.framer, .host]
  | .trTxbyte => [.tx]
  | .frmPost _ | .outPop | .errPop | .sysReset => [.host]
  | .bufWrite _ _ | .bufPeek _ | .bufRead _ | .bufClose _ | .bufOpen _ | .bufReset _ | .bufIsclosed _ | .bufIsempty _
  | .dbWhandle _ | .dbRhandle _ | .dbSwappable _ | .poolFree _ => agents

/-- An operation is performed only for an agent it is listed for. -/
theorem ruleOf_issuer (i : Instr) (s : State) : (ruleOf i s).Ensures fun _ _ => s.port ∈ issuersOf i := by
  intro r t done
  cases i with
  | frmPost h => exact (issuedBy_eq_done.mp (faultUnless_eq_done.mp done).2).1
  | poolAlloc =>
    obtain ⟨h, s', alloc, -⟩ := Res.bind_eq_done.mp done
    exact (issuedBy_eq_done.mp alloc).1
  | dbPut | dbPeek | dbTake | dbSwap | trNext | trPutb | trFlush | trRxbyte | trRxtmo | trTxbyte | parFetch | parExec
  | frmStep | outPop | errPop | sysReset => exact (issuedBy_eq_done.mp done).1
  | bufWrite | bufPeek | bufRead | bufClose | bufOpen | bufReset | bufIsclosed | bufIsempty | dbWhandle | dbRhandle
  | dbSwappable | poolFree => exact mem_agents s.port

theorem ne_of_otherIssuer {i j : Instr} {a b : Agent} (only : issuersOf j = [b]) (listed : a ∈ issuersOf i)
    (other : a ≠ b) : i ≠ j := by
  rintro rfl
  rw [only] at listed
  exact other (List.mem_singleton.mp listed)

/-- What is performed is no reset, unless the host issues it (R270). -/
theorem ne_sysReset_of_listed {i : Instr} {a : Agent} (listed : a ∈ issuersOf i)
    (noReset : i = .sysReset → a ≠ .host) : i ≠ .sysReset :=
  fun e => ne_of_otherIssuer rfl listed (noReset e) e

/-- `FAULT` and the response ports apart, an operation leaves what it started from, or what its rule performed for an
agent it is listed for (R11). -/
theorem exec_leaves {i : Instr} {s t : State} (run : exec i s = .next t) :
    ∃ s' fault rsp, t = { s' with fault := fault, rsp := rsp } ∧
      (s' = entryState i s ∨ s.port ∈ issuersOf i ∧ ∃ r, ruleOf i (entryState i s) = .done r s') := by
  rw [exec_eq_respond, respond_eq_next] at run
  obtain ⟨r, s', done, rfl⟩ | ⟨-, rfl⟩ | ⟨f, -, rfl⟩ := run
  · have issuer := ruleOf_issuer i _ r s' done
    rw [entryState_port] at issuer
    exact ⟨s', _, _, rfl, .inr ⟨issuer, r, done⟩⟩
  · exact ⟨entryState i s, _, _, rfl, .inl rfl⟩
  · exact ⟨entryState i s, _, _, rfl, .inl rfl⟩

/-! ### The sequencers, the latch and the traces (R30 to R43) -/

/-- An operation issued by an agent it is not listed for writes no control register. -/
theorem exec_control_of_unlisted {i : Instr} {s t : State} (run : exec i s = .next t)
    (unlisted : s.port ∉ issuersOf i) : t.control = s.control := by
  obtain ⟨s', _, _, rfl, rfl | ⟨listed, -⟩⟩ := exec_leaves run
  · exact entryState_control i s
  · exact absurd listed unlisted

/-- The sequencers, the latch and the `TX` trace belong to the Parser, the Framer and the link's sender, but for the
host's reset (R258): the operations that write them (O52) are listed for these agents only. -/
theorem exec_control_of_otherAgents {i : Instr} {s t : State} (run : exec i s = .next t)
    (noReset : i = .sysReset → s.port ≠ .host) :
    (s.port ≠ .parser → t.pstate = s.pstate ∧ t.pacc = s.pacc ∧ t.pcur = s.pcur ∧ t.platch = s.platch) ∧
    (s.port ≠ .framer → t.fstate = s.fstate ∧ t.facc = s.facc ∧ t.fcur = s.fcur) ∧
    (s.port ≠ .tx → t.tx = s.tx) := by
  by_cases listed : s.port ∈ issuersOf i
  · have ne := ne_sysReset_of_listed listed noReset
    obtain ⟨parser, latch, framer, -, -, -, -, tx⟩ := (onlyTheirOperationsWriteThem i s t run).2 ne
    refine ⟨fun other => ?_, fun other => framer (ne_of_otherIssuer rfl listed other),
      fun other => tx (ne_of_otherIssuer rfl listed other)⟩
    have noTurn : i ≠ .parExec := ne_of_otherIssuer rfl listed other
    have noFetch : i ≠ .parFetch := ne_of_otherIssuer rfl listed other
    obtain ⟨pstate, pacc, pcur⟩ := parser noTurn
    exact ⟨pstate, pacc, pcur, latch noTurn noFetch⟩
  · have same := exec_control_of_unlisted run listed
    simp only [State.control, Control.mk.injEq] at same
    obtain ⟨pstate, pacc, pcur, platch, fstate, facc, fcur, -, -, -, tx⟩ := same
    exact ⟨fun _ => ⟨pstate, pacc, pcur, platch⟩, fun _ => ⟨fstate, facc, fcur⟩, fun _ => tx⟩

/-- Only the link's receiver puts a byte into the `RX` trace (R43, log entry 7). -/
theorem entryState_of_notReceiver {s : State} (other : s.port ≠ .rx) (i : Instr) : entryState i s = s := by
  cases i with
  | trRxbyte b => exact if_neg other
  | _ => rfl

theorem exec_rx_of_notReceiver {i : Instr} {s t : State} (run : exec i s = .next t)
    (noReset : i = .sysReset → s.port ≠ .host) (other : s.port ≠ .rx) : t.rx = s.rx := by
  obtain ⟨s', _, _, rfl, e⟩ := exec_leaves run
  rw [entryState_of_notReceiver other] at e
  obtain rfl | ⟨listed, r, done⟩ := e
  · rfl
  · have ne := ne_sysReset_of_listed listed noReset
    exact congrArg Surroundings.rx (ruleOf_keepsSurroundings ne s r s' done)

/-! ### The selectors (R26, R147, R171) -/

/-- The pair an operation swaps where it is ready (R147, R173 to R176, R221). -/
def swappedBy : Instr → Option DbSel
  | .dbSwap d => some d
  | .trRxbyte _ | .trRxtmo => some .ing
  | .trPutb _ | .trFlush | .frmStep => some .egr
  | _ => none

/-- A pair is swapped by its swap owner, and the egress pair by the host's `TR.FLUSH` too (R171). -/
theorem issuer_of_swappedBy {i : Instr} {d : DbSel} {a : Agent} (swaps : swappedBy i = some d)
    (listed : a ∈ issuersOf i) : a = swapOwner d ∨ d = .egr ∧ i = .trFlush ∧ a = .host := by
  cases i with
  | dbSwap | trRxbyte | trRxtmo | trPutb | frmStep =>
    injection swaps with swaps
    subst swaps
    exact .inl (List.mem_singleton.mp listed)
  | trFlush =>
    injection swaps with swaps
    subst swaps
    obtain framer | host : a = .framer ∨ a = .host := by simpa [issuersOf] using listed
    · exact .inl framer
    · exact .inr ⟨rfl, rfl, host⟩
  | _ => cases swaps

theorem BufferStep.aw {a : Agent} {h : Handle} {s t : State} (x : BufferStep a h s t) (d : DbSel) :
    t.aw d = s.aw d := by
  rw [x.frame]; rfl

theorem ParserStep.aw {b : Byte} {s t : State} (x : ParserStep b s t) (d : DbSel) : t.aw d = s.aw d := by
  cases x with
  | matched | started | filled | accepted => rfl
  | mismatched | tooShort | rejected => rw [enterRecovery_eq]; rfl
  | scanned => rw [scan_eq]; rfl

/-- A turn of the Framer works on the egress pair, so the ingress selector stays. -/
theorem FramerStep.awIng {s t : State} (x : FramerStep s t) : t.aw .ing = s.aw .ing := by
  cases x with
  | swapped _ swap => exact swap.selector .ing (by decide)
  | popped _ swap => exact swap.selector .ing (by decide)
  | preamble _ _ _ sent => exact sent.selector .ing (by decide)
  | payload _ _ read sent => exact (sent.selector .ing (by decide)).trans (read.aw .ing)
  | checksum _ _ sent _ pushed => exact (pushed.selector .ing (by decide)).trans (sent.selector .ing (by decide))

/-- A take is an operation on one Buffer: it swaps nothing. -/
theorem opDbTake_aw (a : Agent) (e d : DbSel) (s : State) : (opDbTake a e s).Ensures fun _ t => t.aw d = s.aw d := by
  intro r t done
  obtain ⟨-, take⟩ := opDbTake_eq_done.mp done
  exact (opBufRead_bufferStep _ _ _ _ _ take).aw d

theorem opTrTxbyte_aw (a : Agent) (d : DbSel) (s : State) : (opTrTxbyte a s).Ensures fun _ t => t.aw d = s.aw d := by
  refine Res.Ensures.issuedBy <| Res.Ensures.holdUnless <|
    (opDbTake_aw a .egr d s).bind fun r s' kept => Res.ensures_done.mpr ?_
  cases r with
  | ok | none | full => exact kept

theorem opTrNext_aw (a : Agent) (d : DbSel) (s : State) : (opTrNext a s).Ensures fun _ t => t.aw d = s.aw d :=
  (opDbTake_aw a .ing d s).holdUnless.issuedBy

theorem opParFetch_aw (a : Agent) (d : DbSel) (s : State) : (opParFetch a s).Ensures fun _ t => t.aw d = s.aw d := by
  refine Res.Ensures.issuedBy <| Res.Ensures.holdUnless <| Res.Ensures.holdUnless <|
    (opTrNext_aw a d s).bind fun r s' kept => ?_
  cases r with
  | ok v => exact Res.ensures_done.mpr kept
  | none => exact Res.ensures_abort
  | full => exact Res.ensures_abort

/-- A rule that does not swap a pair leaves its selector, but for reset. -/
theorem ruleOf_aw {i : Instr} {d : DbSel} (ne : i ≠ .sysReset) (swapsNot : swappedBy i ≠ some d) (s : State) :
    (ruleOf i s).Ensures fun _ t => t.aw d = s.aw d := by
  intro r t done
  have step := ruleOf_targetStep i s r t done
  cases i with
  | bufWrite | bufPeek | bufRead | bufClose | bufOpen | bufReset => exact BufferStep.aw step d
  | bufIsclosed | bufIsempty | dbWhandle | dbRhandle | dbSwappable => exact congrArg (State.aw · d) step
  | dbPut e b => exact (opBufWrite_bufferStep _ _ _ _ _ _ (opDbPut_eq_done.mp done).2).aw d
  | dbPeek e => exact (opBufPeek_bufferStep _ _ _ _ _ (opDbPeek_eq_done.mp done).2).aw d
  | dbTake e => exact opDbTake_aw _ e d s r t done
  | trNext => exact opTrNext_aw _ d s r t done
  | dbSwap | trRxbyte | trRxtmo | trPutb | trFlush =>
    exact PairStep.selector step d fun e => swapsNot (congrArg some e.symm)
  | trTxbyte => exact opTrTxbyte_aw _ d s r t done
  | parFetch => exact opParFetch_aw _ d s r t done
  | parExec =>
    obtain ⟨b, s', turn, rfl⟩ := opParExec_ensures _ _ _ _ done
    exact turn.aw d
  | frmStep =>
    cases d with
    | ing => exact (opFrmStep_ensures _ _ _ _ done).awIng
    | egr => exact absurd rfl swapsNot
  | poolAlloc =>
    obtain ⟨-, p, -, rfl⟩ := opPoolAlloc_ensures _ _ _ _ done
    rfl
  | poolFree h =>
    obtain ⟨-, -, -, rfl⟩ := opPoolFree_eq_done.mp done
    rfl
  | frmPost h =>
    obtain ⟨-, -, -, rfl⟩ := opFrmPost_ensures _ _ _ _ _ done
    rfl
  | outPop =>
    obtain ⟨h, rest, -, rfl⟩ := opOutPop_ensures _ _ _ _ done
    rfl
  | errPop =>
    obtain ⟨e, rest, -, rfl⟩ := opErrPop_ensures _ _ _ _ done
    rfl
  | sysReset => exact absurd rfl ne

@[simp] theorem entryState_aw (i : Instr) (s : State) (d : DbSel) : (entryState i s).aw d = s.aw d := by
  cases i with
  | trRxbyte b => cases d with
    | ing => exact s.received_awIng b
    | egr => exact s.received_awEgr b
  | _ => rfl

/-- A selector is the swap owner's, but for the host's reset and flush (R171, R258). -/
theorem exec_aw {i : Instr} {s t : State} {d : DbSel} (run : exec i s = .next t)
    (noReset : i = .sysReset → s.port ≠ .host) (other : s.port ≠ swapOwner d)
    (noFlush : d = .egr → i = .trFlush → s.port ≠ .host) : t.aw d = s.aw d := by
  obtain ⟨s', _, _, rfl, rfl | ⟨listed, r, done⟩⟩ := exec_leaves run
  · exact entryState_aw i s d
  · have ne := ne_sysReset_of_listed listed noReset
    have swapsNot : swappedBy i ≠ some d := fun swaps => by
      obtain owner | ⟨egress, flush, host⟩ := issuer_of_swappedBy swaps listed
      · exact other owner
      · exact noFlush egress flush host
    exact (ruleOf_aw ne swapsNot _ r s' done).trans (entryState_aw i s d)

/-! ### The response ports (R102, log entry 4) -/

/-- An operation answers on the port it came from, whatever its outcome. -/
theorem exec_rsp {i : Instr} {s t : State} (run : exec i s = .next t) : ∃ w, t.rsp = s.rsp.set s.port w := by
  rw [exec_eq_respond, respond_eq_next] at run
  obtain ⟨r, s', done, rfl⟩ | ⟨-, rfl⟩ | ⟨f, -, rfl⟩ := run
  · obtain ⟨rsp, port⟩ := ruleOf_keepsPorts i _ r s' done
    refine ⟨r.word, ?_⟩
    rw [State.answer_rsp, rsp, port, entryState_rsp, entryState_port]
  · exact ⟨holdWord, by rw [State.answer_rsp, entryState_rsp, entryState_port]⟩
  · exact ⟨f.word, by rw [takeFault_eq, entryState_rsp, entryState_port]⟩

/-! ### The statements -/

/-- Settles O50: the slots by their roles in the pair, a pool Buffer by its holder; what the host owns is in the
pool. -/
theorem ownershipFollowsTheTable : Obligations.OwnershipFollowsTheTable := by
  intro s
  refine ⟨s.agentOwning_wh .ing, s.agentOwning_rh .ing, s.agentOwning_wh .egr, s.agentOwning_rh .egr,
    fun h slot host => ?_, fun h o pool held => ?_⟩
  · have pool := State.isPoolHandle_of_host host
    omega
  · rw [State.agentOwning_pool pool, held]
    cases o <;> rfl

/-- Settles O51: register by register, whoever is not its agent leaves it. -/
theorem registersBelongToTheirAgents : Obligations.RegistersBelongToTheirAgents := by
  intro i s t run noReset
  obtain ⟨parser, framer, tx⟩ := exec_control_of_otherAgents run noReset
  refine ⟨parser, framer, fun other => ⟨?_, exec_rx_of_notReceiver run noReset other⟩,
    fun other noFlush => ?_, tx, fun a other => ?_⟩
  · exact exec_aw (d := .ing) run noReset other nofun
  · exact exec_aw (d := .egr) run noReset other fun _ => noFlush
  · obtain ⟨w, rsp⟩ := exec_rsp run
    rw [rsp, RspPorts.get_set_other _ _ other]

end Sys2Proof.Machine

/-! PROOFS of the reset statement (70_reset_and_hazards.md): what `SYS.RESET` leaves (O47, R270). -/

namespace Sys2Proof.Machine

/-- For the host `SYS.RESET` is performed in any state, and answers `OK` (R270). -/
theorem opSysReset_of_host {a : Agent} (host : a = .host) (s : State) :
    opSysReset a s = .done (.ok 0) s.resetRegisters :=
  issuedBy_self host

/-- Settles O47: a foreign agent is turned away; for the host the registers are those of `State.resetOf`, under the
answer `OK` on the port. -/
theorem sysResetRestoresTheResetValues : Obligations.SysResetRestoresTheResetValues := fun s =>
  ⟨rfl, fun foreign => respond_issuedBy_of_ne foreign, fun host => respond_of_done (opSysReset_of_host host s)⟩

end Sys2Proof.Machine
